-- ==== Sys2Proof/Word.lean ====
section
/-! DEFINITION. The word types of the datapath (spec 00_scope.md R7, R10): a `uN` of the spec is a `BitVec N`. -/

namespace Sys2Proof

/-- A u8: a general register, a memory byte, an ALU operand (R7). -/
abbrev Byte := BitVec 8

/-- A u16: the program counter, a 16-bit immediate (R7). -/
abbrev Word16 := BitVec 16

/-- A u32: an instruction word as the decoder gets it (R9, R115). -/
abbrev Word32 := BitVec 32

/-- A register index, 0 to 15; all 16 values name a register (R30, R102). -/
abbrev Reg := Fin 16

end Sys2Proof
end

