-- ==== Sys2Proof/Syntax.lean ====
section
/-! DEFINITION. The instructions: one constructor per row of spec/opcode_table.json (spec 00_scope.md R2), with the
operands of its format (30_encoding.md R124) as the decoder gives them, raw and not extended (R101). -/

namespace Sys2Proof

/-- The 35 instructions of R2. A 16-bit immediate is the raw field w[31:16], JAL's the raw 20-bit field w[31:12], and
a shift amount the whole byte w[23:16], of which execution uses the low 5 bits (R98, R101). -/
inductive Instr where
  | add (rd rs1 rs2 : Reg)
  | sub (rd rs1 rs2 : Reg)
  | mul (rd rs1 rs2 : Reg)
  | div (rd rs1 rs2 : Reg)
  | and (rd rs1 rs2 : Reg)
  | or (rd rs1 rs2 : Reg)
  | xor (rd rs1 rs2 : Reg)
  | sll (rd rs1 rs2 : Reg)
  | srl (rd rs1 rs2 : Reg)
  | addi (rd rs1 : Reg) (imm : Word16)
  | subi (rd rs1 : Reg) (imm : Word16)
  | muli (rd rs1 : Reg) (imm : Word16)
  | divi (rd rs1 : Reg) (imm : Word16)
  | andi (rd rs1 : Reg) (imm : Word16)
  | ori (rd rs1 : Reg) (imm : Word16)
  | xori (rd rs1 : Reg) (imm : Word16)
  | slli (rd rs1 : Reg) (shamt : Byte)
  | srli (rd rs1 : Reg) (shamt : Byte)
  | lui (rd : Reg) (imm : Word16)
  | auipc (rd : Reg) (imm : Word16)
  | lb (rd rs1 : Reg) (imm : Word16)
  | lh (rd rs1 : Reg) (imm : Word16)
  | lw (rd rs1 : Reg) (imm : Word16)
  | sb (rs1 rs2 : Reg) (imm : Word16)
  | sh (rs1 rs2 : Reg) (imm : Word16)
  | sw (rs1 rs2 : Reg) (imm : Word16)
  | beq (rs1 rs2 : Reg) (imm : Word16)
  | bne (rs1 rs2 : Reg) (imm : Word16)
  | blt (rs1 rs2 : Reg) (imm : Word16)
  | bgt (rs1 rs2 : Reg) (imm : Word16)
  | ble (rs1 rs2 : Reg) (imm : Word16)
  | bge (rs1 rs2 : Reg) (imm : Word16)
  | jal (rd : Reg) (imm : BitVec 20)
  | jalr (rd rs1 : Reg) (imm : Word16)
  | halt
  deriving DecidableEq, Repr

/-- The 35 mnemonics of R2, the keys of the ISA table (R104). -/
inductive Mnemonic where
  | add | sub | mul | div | and | or | xor | sll | srl
  | addi | subi | muli | divi | andi | ori | xori
  | slli | srli
  | lui | auipc
  | lb | lh | lw
  | sb | sh | sw
  | beq | bne | blt | bgt | ble | bge
  | jal | jalr
  | halt
  deriving DecidableEq, Repr

/-- The eight operand and bit-layout families (R2, R16 "Format"; R92 to R99). -/
inductive Format where
  /-- R92: 24 bits, rd, rs1, rs2, funct4. -/
  | r
  /-- R93: rd, rs1, imm16. -/
  | i
  /-- R94: rd, imm16, funct4. -/
  | u
  /-- R95: rs1, rs2, imm16. -/
  | s
  /-- R96: rd, imm20. -/
  | jImm
  /-- R97: rd, rs1, imm16. -/
  | jReg
  /-- R98: rd, rs1, shamt, funct4. -/
  | shiftImm
  /-- R99: no operand. -/
  | noOperand
  deriving DecidableEq, Repr

/-- Every mnemonic once, in the order of R105. -/
def Mnemonic.all : List Mnemonic :=
  [.add, .sub, .mul, .div, .and, .or, .xor, .sll, .srl,
   .addi, .subi, .muli, .divi, .andi, .ori, .xori, .slli, .srli, .lui, .auipc,
   .lb, .lh, .lw, .sb, .sh, .sw, .beq, .bne, .blt, .bgt, .ble, .bge, .jal, .jalr, .halt]

/-- The mnemonic of an instruction. -/
def Instr.mnemonic : Instr → Mnemonic
  | .add _ _ _ => .add
  | .sub _ _ _ => .sub
  | .mul _ _ _ => .mul
  | .div _ _ _ => .div
  | .and _ _ _ => .and
  | .or _ _ _ => .or
  | .xor _ _ _ => .xor
  | .sll _ _ _ => .sll
  | .srl _ _ _ => .srl
  | .addi _ _ _ => .addi
  | .subi _ _ _ => .subi
  | .muli _ _ _ => .muli
  | .divi _ _ _ => .divi
  | .andi _ _ _ => .andi
  | .ori _ _ _ => .ori
  | .xori _ _ _ => .xori
  | .slli _ _ _ => .slli
  | .srli _ _ _ => .srli
  | .lui _ _ => .lui
  | .auipc _ _ => .auipc
  | .lb _ _ _ => .lb
  | .lh _ _ _ => .lh
  | .lw _ _ _ => .lw
  | .sb _ _ _ => .sb
  | .sh _ _ _ => .sh
  | .sw _ _ _ => .sw
  | .beq _ _ _ => .beq
  | .bne _ _ _ => .bne
  | .blt _ _ _ => .blt
  | .bgt _ _ _ => .bgt
  | .ble _ _ _ => .ble
  | .bge _ _ _ => .bge
  | .jal _ _ => .jal
  | .jalr _ _ _ => .jalr
  | .halt => .halt

end Sys2Proof
end

