-- ==== Sys2Proof/Config.lean ====
section
/-! DEFINITION. What an implementation fixes (spec 00_scope.md R8): the types of the open parameters, and the one value
the spec leaves open with no default. A machine's parameters stand in `State.cfg` (log entry 1), so that a statement over
every state covers every value of them. -/

namespace Sys2Proof

/-- One row of the ISA table: the numbers of one mnemonic, funct4 or none (R104). -/
structure IsaRow where
  mnemonic : Mnemonic
  opcode : BitVec 5
  funct3 : BitVec 3
  funct4 : Option (BitVec 4)
  deriving DecidableEq, Repr

/-- ISA_TABLE (R104): a parameter, since the source gives no numeric values. What every table must meet (R106, R107)
is `IsaTable.valid`. -/
abbrev IsaTable := List IsaRow

/-- PAIR_WRAP (R191): how the index after 15 behaves in SW and LW. -/
inductive PairWrap where
  /-- 15 pairs with 0, the default. -/
  | wrap
  /-- An SW with rs2 = 15 or an LW with rd = 15 is refused. -/
  | refuse
  deriving DecidableEq, Repr

/-- The parameters of R8, each an argument of the model. PROG_LIMIT is derived (`Config.progLimit`). -/
structure Config where
  /-- ISA_TABLE. -/
  isa : IsaTable
  /-- MEM_SIZE: the bytes of the memory array. -/
  memSize : Nat
  /-- ADDR_MASK: the mask of data addresses. The spec defines the pair with MEM_SIZE = ADDR_MASK + 1 only (D3; log entry
  11). -/
  addrMask : Nat
  /-- PROG_BASE: the address of the first ROM byte and the reset pc. -/
  progBase : Word16
  /-- ROM_LEN: the length of the loaded ROM image in bytes. -/
  romLen : Nat
  /-- MAX_STEPS: the instruction-count ceiling. -/
  maxSteps : Nat
  /-- PAIR_WRAP. -/
  pairWrap : PairWrap
  deriving DecidableEq, Repr

/-- PROG_LIMIT, the end of the program region: PROG_BASE + ROM_LEN, an exact integer (R8, R67). -/
def Config.progLimit (c : Config) : Nat := c.progBase.toNat + c.romLen

/-- DESIGN CHOICE, safe (log entry 2): MAX_STEPS is OPEN (R8, R248, D21), any positive natural. This constant has no
value in Lean; MAX_STEPS at reset is one more than it, so that it is positive whatever it is. -/
opaque Config.openCeilingLessOne : Nat

end Sys2Proof
end

