-- ==== Sys2Proof/Decode.lean ====
section
/-! DEFINITION. The classifier and the field unpacker of spec/30_encoding.md, total on any bytes and rejecting by name,
then the encoder (R127), both for ANY ISA table (R104), and the reference table of R105. -/

namespace Sys2Proof

/-! ## Formats, lengths, descriptors -/

/-- The format of every instruction (R100; the loads by D9, log entry 23). -/
def Mnemonic.format : Mnemonic → Format
  | .add | .sub | .mul | .div | .and | .or | .xor | .sll | .srl => .r
  | .addi | .subi | .muli | .divi | .andi | .ori | .xori => .i
  | .slli | .srli => .shiftImm
  | .lui | .auipc => .u
  | .lb | .lh | .lw => .i
  | .sb | .sh | .sw => .s
  | .beq | .bne | .blt | .bgt | .ble | .bge => .s
  | .jal => .jImm
  | .jalr => .jReg
  | .halt => .noOperand

/-- The encoded length in bits: the R format has 24, every other 32 (R90, R100). -/
def Format.bits : Format → Nat
  | .r => 24
  | _ => 32

/-- Whether a format's instructions are told apart by funct4 (R100, R111). -/
def Format.usesFunct4 : Format → Bool
  | .r | .shiftImm | .u => true
  | _ => false

/-- The encoded length in bytes, `bits / 8` (R100, R113). -/
def Format.bytes : Format → Nat
  | .r => 3
  | _ => 4

/-- The length of an instruction in bytes, 3 or 4 (R113). -/
def Instr.len (i : Instr) : Nat := i.mnemonic.format.bytes

/-- The classifier's output record (R110). -/
structure Descriptor where
  mnemonic : Mnemonic
  opcode : BitVec 5
  funct3 : BitVec 3
  funct4 : Option (BitVec 4)
  format : Format
  /-- The encoded length in bits, 24 or 32. -/
  length : Nat
  deriving DecidableEq, Repr

/-- `len = descriptor.length / 8` (R113). -/
def Descriptor.lenBytes (d : Descriptor) : Nat := d.length / 8

/-- The descriptor of a table row: its numbers, with the format and length of R100 (R104, R110). -/
def IsaRow.descriptor (r : IsaRow) : Descriptor where
  mnemonic := r.mnemonic
  opcode := r.opcode
  funct3 := r.funct3
  funct4 := r.funct4
  format := r.mnemonic.format
  length := r.mnemonic.format.bits

/-- The selector byte `(opcode << 3) | funct3` (R91). -/
def selectorOf (opcode : BitVec 5) (funct3 : BitVec 3) : Byte :=
  (opcode.setWidth 8 <<< 3) ||| funct3.setWidth 8

/-- A row's selector byte (R91, R105). -/
def IsaRow.sel (r : IsaRow) : Byte := selectorOf r.opcode r.funct3

/-! ## The classifier (R110 to R112) -/

/-- Whether a selector byte is in F4SEL, the selectors of the instructions that have a funct4 (R111). -/
def isFunct4Selector (t : IsaTable) (b0 : Byte) : Bool :=
  t.any fun r => r.funct4.isSome && r.sel == b0

/-- The 2-key lookup, over the instructions with no funct4; it never matches the selector 0x00 (R107, R112). -/
def lookup2 (t : IsaTable) (opcode : BitVec 5) (funct3 : BitVec 3) : Option Descriptor :=
  if selectorOf opcode funct3 = 0 then none
  else (t.find? fun r => r.funct4.isNone && r.opcode == opcode && r.funct3 == funct3).map IsaRow.descriptor

/-- The 3-key lookup, over the instructions with a funct4 (R112); the selector 0x00 is reserved here too (R107). -/
def lookup3 (t : IsaTable) (opcode : BitVec 5) (funct3 : BitVec 3) (funct4 : BitVec 4) : Option Descriptor :=
  if selectorOf opcode funct3 = 0 then none
  else (t.find? fun r => r.funct4 == some funct4 && r.opcode == opcode && r.funct3 == funct3).map IsaRow.descriptor

/-- The classifier (R110, R112). byte1 is used for a funct4 selector only, and of it the low nibble only; a funct4
selector with no byte1 resolves to nothing. -/
def classify (t : IsaTable) (b0 : Byte) (b1 : Option Byte) : Option Descriptor :=
  let opcode := b0.extractLsb' 3 5
  let funct3 := b0.extractLsb' 0 3
  if isFunct4Selector t b0 then
    match b1 with
    | some b => lookup3 t opcode funct3 (b.extractLsb' 0 4)
    | none => none
  else lookup2 t opcode funct3

/-! ## The field unpacker (R115, R116) -/

/-- The decoder's output record DecodedInstruction (R115); fields a format does not have hold 0 (R103). -/
structure DecodedInstruction where
  opcode : BitVec 5
  funct3 : BitVec 3
  funct4 : BitVec 4
  rd : Reg
  rs1 : Reg
  rs2 : Reg
  imm : BitVec 20
  halt : Bool
  desc : Descriptor
  deriving DecidableEq, Repr

/-- The 4-bit field w[lo+3:lo] as a register index (R9, R102). -/
def regField (lo : Nat) (w : Word32) : Reg := (w.extractLsb' lo 4).toFin

/-- The decoder function of R116: total, and never a fault (R117). -/
def decodeFields (w : Word32) (d : Descriptor) : DecodedInstruction :=
  let base : DecodedInstruction :=
    { opcode := w.extractLsb' 3 5, funct3 := w.extractLsb' 0 3, funct4 := 0, rd := 0, rs1 := 0, rs2 := 0, imm := 0,
      halt := false, desc := d }
  match d.format with
  | .r => { base with funct4 := w.extractLsb' 8 4, rd := regField 12 w, rs1 := regField 16 w, rs2 := regField 20 w }
  | .i => { base with rd := regField 8 w, rs1 := regField 12 w, imm := (w.extractLsb' 16 16).setWidth 20 }
  | .u => { base with funct4 := w.extractLsb' 8 4, rd := regField 12 w, imm := (w.extractLsb' 16 16).setWidth 20 }
  | .s => { base with rs1 := regField 8 w, rs2 := regField 12 w, imm := (w.extractLsb' 16 16).setWidth 20 }
  | .jImm => { base with
      rd := regField 8 w
      imm := (w.extractLsb' 12 12).setWidth 20 ||| ((w.extractLsb' 24 8).setWidth 20 <<< 12) }
  | .jReg => { base with rd := regField 8 w, rs1 := regField 12 w, imm := (w.extractLsb' 16 16).setWidth 20 }
  | .shiftImm => { base with
      funct4 := w.extractLsb' 8 4
      rd := regField 12 w
      imm := (w.extractLsb' 16 8).setWidth 20
      rs1 := regField 24 w }
  | .noOperand => { base with halt := true }

/-- The operand part of the decoder's record: rd, rs1, rs2 and the immediate, 0 where a format lacks one (R103). -/
structure OperandFields where
  rd : Reg := 0
  rs1 : Reg := 0
  rs2 : Reg := 0
  imm : BitVec 20 := 0
  deriving DecidableEq, Repr

/-- The operands of an instruction, as the decoder's record carries them (R103, R116). -/
def Instr.operands : Instr → OperandFields
  | .add rd rs1 rs2 | .sub rd rs1 rs2 | .mul rd rs1 rs2 | .div rd rs1 rs2 | .and rd rs1 rs2 | .or rd rs1 rs2
  | .xor rd rs1 rs2 | .sll rd rs1 rs2 | .srl rd rs1 rs2 => { rd := rd, rs1 := rs1, rs2 := rs2 }
  | .addi rd rs1 imm | .subi rd rs1 imm | .muli rd rs1 imm | .divi rd rs1 imm | .andi rd rs1 imm | .ori rd rs1 imm
  | .xori rd rs1 imm | .lb rd rs1 imm | .lh rd rs1 imm | .lw rd rs1 imm | .jalr rd rs1 imm =>
    { rd := rd, rs1 := rs1, imm := imm.setWidth 20 }
  | .slli rd rs1 shamt | .srli rd rs1 shamt => { rd := rd, rs1 := rs1, imm := shamt.setWidth 20 }
  | .lui rd imm | .auipc rd imm => { rd := rd, imm := imm.setWidth 20 }
  | .sb rs1 rs2 imm | .sh rs1 rs2 imm | .sw rs1 rs2 imm | .beq rs1 rs2 imm | .bne rs1 rs2 imm | .blt rs1 rs2 imm
  | .bgt rs1 rs2 imm | .ble rs1 rs2 imm | .bge rs1 rs2 imm => { rs1 := rs1, rs2 := rs2, imm := imm.setWidth 20 }
  | .jal rd imm => { rd := rd, imm := imm }
  | .halt => {}

/-- The instruction that a mnemonic and the decoder's operands stand for: execution dispatches on the descriptor
(R122). -/
def Instr.ofOperands (m : Mnemonic) (o : OperandFields) : Instr :=
  let imm16 : Word16 := o.imm.setWidth 16
  let shamt : Byte := o.imm.setWidth 8
  match m with
  | .add => .add o.rd o.rs1 o.rs2
  | .sub => .sub o.rd o.rs1 o.rs2
  | .mul => .mul o.rd o.rs1 o.rs2
  | .div => .div o.rd o.rs1 o.rs2
  | .and => .and o.rd o.rs1 o.rs2
  | .or => .or o.rd o.rs1 o.rs2
  | .xor => .xor o.rd o.rs1 o.rs2
  | .sll => .sll o.rd o.rs1 o.rs2
  | .srl => .srl o.rd o.rs1 o.rs2
  | .addi => .addi o.rd o.rs1 imm16
  | .subi => .subi o.rd o.rs1 imm16
  | .muli => .muli o.rd o.rs1 imm16
  | .divi => .divi o.rd o.rs1 imm16
  | .andi => .andi o.rd o.rs1 imm16
  | .ori => .ori o.rd o.rs1 imm16
  | .xori => .xori o.rd o.rs1 imm16
  | .slli => .slli o.rd o.rs1 shamt
  | .srli => .srli o.rd o.rs1 shamt
  | .lui => .lui o.rd imm16
  | .auipc => .auipc o.rd imm16
  | .lb => .lb o.rd o.rs1 imm16
  | .lh => .lh o.rd o.rs1 imm16
  | .lw => .lw o.rd o.rs1 imm16
  | .sb => .sb o.rs1 o.rs2 imm16
  | .sh => .sh o.rs1 o.rs2 imm16
  | .sw => .sw o.rs1 o.rs2 imm16
  | .beq => .beq o.rs1 o.rs2 imm16
  | .bne => .bne o.rs1 o.rs2 imm16
  | .blt => .blt o.rs1 o.rs2 imm16
  | .bgt => .bgt o.rs1 o.rs2 imm16
  | .ble => .ble o.rs1 o.rs2 imm16
  | .bge => .bge o.rs1 o.rs2 imm16
  | .jal => .jal o.rd o.imm
  | .jalr => .jalr o.rd o.rs1 imm16
  | .halt => .halt

/-- The operand part of a decoded record. -/
def DecodedInstruction.operands (D : DecodedInstruction) : OperandFields :=
  { rd := D.rd, rs1 := D.rs1, rs2 := D.rs2, imm := D.imm }

/-- The instruction a decoded record stands for (R122). -/
def DecodedInstruction.toInstr (D : DecodedInstruction) : Instr := Instr.ofOperands D.desc.mnemonic D.operands

/-! ## Bytes and words (R9, R71) -/

/-- The little-endian value of up to four bytes, bytes not given taken as 0 (R41, R71). -/
def leWord : List Byte → Word32
  | [] => 0
  | b :: bs => b.setWidth 32 ||| (leWord bs <<< 8)

/-- The `n` lowest bytes of a word, least-significant first (R9, R127). -/
def leBytes : Nat → Word32 → List Byte
  | 0, _ => []
  | n + 1, w => w.setWidth 8 :: leBytes n (w >>> 8)

/-! ## Decoding bytes -/

/-- Why bytes are not an instruction. -/
inductive DecodeError where
  /-- byte0, or byte0 with byte1's low nibble, selects no instruction (R108). -/
  | unknownInstruction
  /-- The bytes end before the instruction does. -/
  | truncated
  deriving DecidableEq, Repr

/-- The decoder on any bytes: the first instruction and the bytes after it (R112, R113, R116). -/
def decode (t : IsaTable) (bytes : List Byte) : Except DecodeError (Instr × List Byte) :=
  match bytes with
  | [] => .error .truncated
  | b0 :: rest =>
    if isFunct4Selector t b0 && rest.isEmpty then .error .truncated
    else
      match classify t b0 rest.head? with
      | none => .error .unknownInstruction
      | some d =>
        if bytes.length < d.lenBytes then .error .truncated
        else .ok ((decodeFields (leWord (bytes.take d.lenBytes)) d).toInstr, bytes.drop d.lenBytes)

/-- The instruction that a 32-bit word selects, its byte0 at the lowest address; a 24-bit instruction is decoded with
w[31:24] = 0 (R115). -/
def decodeWord (t : IsaTable) (w : Word32) : Option Instr :=
  (classify t (w.extractLsb' 0 8) (some (w.extractLsb' 8 8))).map fun d =>
    (decodeFields (leWord (leBytes d.lenBytes w)) d).toInstr

/-! ## The encoder (R127) -/

/-- The row of a mnemonic; a table that has none gives the reserved all-zero selector (R107). -/
def IsaTable.row (t : IsaTable) (m : Mnemonic) : IsaRow :=
  (t.find? fun r => r.mnemonic == m).getD { mnemonic := m, opcode := 0, funct3 := 0, funct4 := none }

/-- A register index as four bits of an instruction word, its lowest bit at `lo` (R127). -/
def placeReg (lo : Nat) (r : Reg) : Word32 := (BitVec.ofFin r : BitVec 4).setWidth 32 <<< lo

/-- A field as bits of an instruction word, its lowest bit at `lo` (R127). -/
def placeField {n : Nat} (lo : Nat) (v : BitVec n) : Word32 := v.setWidth 32 <<< lo

/-- The packing of R127, one case per format. -/
def packWord (f : Format) (sel : Byte) (funct4 : BitVec 4) (o : OperandFields) : Word32 :=
  match f with
  | .r => placeField 0 sel ||| placeField 8 funct4 ||| placeReg 12 o.rd ||| placeReg 16 o.rs1 ||| placeReg 20 o.rs2
  | .i | .jReg =>
    placeField 0 sel ||| placeReg 8 o.rd ||| placeReg 12 o.rs1 ||| placeField 16 (o.imm.setWidth 16)
  | .u => placeField 0 sel ||| placeField 8 funct4 ||| placeReg 12 o.rd ||| placeField 16 (o.imm.setWidth 16)
  | .s => placeField 0 sel ||| placeReg 8 o.rs1 ||| placeReg 12 o.rs2 ||| placeField 16 (o.imm.setWidth 16)
  | .jImm =>
    placeField 0 sel ||| placeReg 8 o.rd ||| placeField 12 (o.imm.extractLsb' 0 12) |||
      placeField 24 (o.imm.extractLsb' 12 8)
  | .shiftImm =>
    placeField 0 sel ||| placeField 8 funct4 ||| placeReg 12 o.rd ||| placeField 16 (o.imm.extractLsb' 0 5) |||
      placeReg 24 o.rs1
  | .noOperand => placeField 0 sel

/-- The instruction word of an instruction under an ISA table (R127). -/
def encodeWord (t : IsaTable) (i : Instr) : Word32 :=
  let r := t.row i.mnemonic
  packWord i.mnemonic.format r.sel (r.funct4.getD 0) i.operands

/-- The encoder: exactly the instruction's bytes, least-significant first (R127 "Byte packing"). -/
def encode (t : IsaTable) (i : Instr) : List Byte := leBytes i.len (encodeWord t i)

/-! ## The reference assignment (R105) -/

/-- A row with no funct4. -/
def plainRow (m : Mnemonic) (opcode : BitVec 5) (funct3 : BitVec 3) : IsaRow :=
  { mnemonic := m, opcode := opcode, funct3 := funct3, funct4 := none }

/-- A row told apart by funct4; the reference table gives each of them funct3 = 0. -/
def funct4Row (m : Mnemonic) (opcode : BitVec 5) (funct4 : BitVec 4) : IsaRow :=
  { mnemonic := m, opcode := opcode, funct3 := 0, funct4 := some funct4 }

/-- R105's R, I and shift-immediate rows. -/
def referenceAluRows : IsaTable :=
  [funct4Row .add 1 0, funct4Row .sub 1 1, funct4Row .mul 1 2, funct4Row .div 1 3, funct4Row .and 1 4,
   funct4Row .or 1 5, funct4Row .xor 1 6, funct4Row .sll 1 7, funct4Row .srl 1 8,
   plainRow .addi 2 0, plainRow .subi 2 1, plainRow .muli 2 2, plainRow .divi 2 3, plainRow .andi 2 4,
   plainRow .ori 2 5, plainRow .xori 2 6,
   funct4Row .slli 3 0, funct4Row .srli 3 1]

/-- R105's U, load, store, branch, jump and HALT rows. -/
def referenceOtherRows : IsaTable :=
  [funct4Row .lui 4 0, funct4Row .auipc 4 1,
   plainRow .lb 5 0, plainRow .lh 5 1, plainRow .lw 5 2,
   plainRow .sb 6 0, plainRow .sh 6 1, plainRow .sw 6 2,
   plainRow .beq 7 0, plainRow .bne 7 1, plainRow .blt 7 2, plainRow .bgt 7 3, plainRow .ble 7 4, plainRow .bge 7 5,
   plainRow .jal 8 0, plainRow .jalr 9 0, plainRow .halt 31 7]

/-- The reference assignment of R105: DESIGN CHOICE of the spec (D2), unsafe for the repository's real ROMs, whose
numbers no source gives (log entry 3). -/
def referenceTable : IsaTable := referenceAluRows ++ referenceOtherRows

/-- The instruction the decoder reads, under the reference table, from the instruction whose bits are `w`, numbered as
spec/opcode_table.json numbers them; the bits from `nbits` up are 0. -/
def decodeTableWord (nbits w : Nat) : Option Instr :=
  match decode referenceTable (leBytes 4 (BitVec.ofNat 32 (w % 2 ^ nbits))) with
  | .ok (i, _) => some i
  | .error _ => none

end Sys2Proof
end

