-- ==== Sys2Proof/Machine/Params.lean ====
section
/-! DEFINITION. The defaults that spec 00_scope.md R8 gives the parameters. -/

namespace Sys2Proof.Machine

/-- MEM_SIZE's default (R8, R60: D3, log entry 11). -/
def defaultMemSize : Nat := 4096

/-- ADDR_MASK's default, MEM_SIZE - 1 = 0x0FFF (R8, R60). -/
def defaultAddrMask : Nat := defaultMemSize - 1

/-- PROG_BASE's default (R8, R37: D4, log entry 6). -/
def defaultProgBase : Word16 := 0x0000

/-- PAIR_WRAP's default (R8, R191: D14, log entry 10). -/
def defaultPairWrap : PairWrap := .wrap

/-- MAX_STEPS at reset: open, positive, with no value in Lean (R8, R248: D21, log entry 2). -/
def openMaxSteps : Nat := Config.openCeilingLessOne + 1

/-- The parameters at reset, before a ROM image is loaded: ROM_LEN is given at load time (R8, log entry 5). -/
def defaultConfig : Config where
  isa := referenceTable
  memSize := defaultMemSize
  addrMask := defaultAddrMask
  progBase := defaultProgBase
  romLen := 0
  maxSteps := openMaxSteps
  pairWrap := defaultPairWrap

end Sys2Proof.Machine
end

