-- ==== Sys2Proof/Machine/State.lean ====
section
/-! DEFINITION. The state record S of spec 10_state.md R49 as plain data, the reasons a step can stop, and the machine
right after reset (70_reset_and_hazards.md R270). -/

namespace Sys2Proof.Machine

/-- The execution error kinds of R240. What a kind records beyond lastPC, lastWord and divErrors is its argument. -/
inductive ErrorKind where
  /-- Code 1, fatal: raised by the classifier (R241). -/
  | unknownInstruction
  /-- Code 2, fatal: raised by the fetch of a byte outside the program region (R242); records the bad address, an
  exact integer (R67, R120; log entry 8). -/
  | pcOutOfBounds (addr : Nat)
  /-- Code 3, recoverable: DIV and DIVI record it in divErrors (R244); no run state ever holds it. -/
  | divisionByZero
  /-- Code 4, reserved: never raised (R245). -/
  | stackOverflow
  /-- Code 5, reserved: never raised (R245). -/
  | stackUnderflow
  deriving DecidableEq, Repr

/-- The run state of R40. Every value but `running` is terminal (R247). -/
inductive RunState where
  | running
  /-- HALT ended the run (R230). -/
  | halted
  /-- A fatal error ended the run (R243). -/
  | faulted (kind : ErrorKind)
  /-- The instruction-count ceiling ended the run (R248). -/
  | ceilingReached
  /-- An SW or LW with the pair of register 15 under PAIR_WRAP = refuse (R249). -/
  | refused
  deriving DecidableEq, Repr

/-- The memory array M of R60 as a list of cells: addresses strictly rising, no cell equal to what an unlisted address
reads as (`Memory.wf`), each address below MEM_SIZE (`Memory.inside`, both in Sys2Proof/Machine/Ops.lean). -/
abbrev Memory := List Host.Cell

/-- The whole state of R49, and the machine's parameters. -/
structure State where
  /-- x: the general registers r0 to r15, none hardwired (R30). -/
  regs : Vector Byte 16
  /-- The program counter (R35). -/
  pc : Word16
  /-- M (R60). -/
  mem : Memory
  /-- The run state (R40). -/
  run : RunState
  /-- The pc of the last step's fetch (R41). -/
  lastPC : Word16
  /-- The bytes fetched in the last step, little-endian (R41). -/
  lastWord : Word32
  /-- The completed steps (R42). -/
  steps : Nat
  /-- The pc of every DIV or DIVI that met a zero divisor, in order (R43). -/
  divErrors : List Word16
  /-- I, the index register: reserved (R44). -/
  index : Word16
  /-- The return-address stack: reserved (R45; entry width by D8, log entry 24). -/
  stack : Vector Word16 16
  /-- The stack pointer: reserved (R45). -/
  sp : Byte
  /-- Reserved (R46). -/
  timer0 : Byte
  /-- Reserved (R46). -/
  timer1 : Byte
  /-- The MODEL's own field: the parameters of R8, which no step writes (R49; log entry 1). -/
  cfg : Config
  deriving DecidableEq, Repr

/-- Why a step stops with no next state. The machine's own errors are not here: the spec describes what they leave, so
they are next states with `run` changed (log entry 8). -/
inductive Fault where
  /-- Raised by `step` in a terminal run state, which takes no step (R247: D27). Safe: the machine does nothing there. -/
  | stopped (run : RunState)
  deriving DecidableEq, Repr

/-- Why the model gives a step no meaning. -/
inductive Refusal where
  /-- An arm of exec not modelled yet. Safe. No arm of this model answers it. -/
  | notModelled (mnemonic : String)
  /-- Raised by `step` and by `boot`: the ROM image does not fit, and the block does not start (R62: D30, log entry 9).
  Safe: the hardware takes no step either. -/
  | romDoesNotFit
  /-- Raised by `step` and by `boot`: MEM_SIZE is not ADDR_MASK + 1, a pair the spec does not define (D3, log entry 11).
  Safe: the spec says nothing about such a machine. -/
  | memoryPairUndefined
  deriving DecidableEq, Repr

/-- The machine right after reset, with no ROM image loaded yet (R270; log entries 4 and 5). DESIGN CHOICE of the spec
(D7), unsafe: the source gives no reset value. -/
def State.reset : State where
  regs := Vector.replicate 16 0
  pc := defaultConfig.progBase
  mem := []
  run := .running
  lastPC := 0
  lastWord := 0
  steps := 0
  divErrors := []
  index := 0
  stack := Vector.replicate 16 0
  sp := 0
  timer0 := 0
  timer1 := 0
  cfg := defaultConfig

end Sys2Proof.Machine
end

