-- ==== Sys2Proof/Machine/Ops.lean ====
section
/-! DEFINITION. The named operations over memory, registers, pc and run state (spec 00_scope.md R12 to R14), fetching
(20_memory.md R67, R70), and taking a fatal error (60_exceptions.md R243). -/

namespace Sys2Proof.Machine

/-! ## The memory array (R60, R76) -/

/-- What an address that memory does not list reads as: the reset contents outside the ROM (R62: D7, log entry 11). -/
def resetByte : Byte := 0x00

/-- `rd8` of the byte port (R76): M[a]. Every address that an instruction or a fetch
forms is below MEM_SIZE (R68, R70). -/
def Memory.rd8 : Memory → Nat → Byte
  | [], _ => resetByte
  | (k, v) :: m, a => if k = a then v else Memory.rd8 m a

/-- `wr8` of the byte port (R76): M[a] <- v. It keeps the canonical form. -/
def Memory.wr8 : Memory → Nat → Byte → Memory
  | [], a, v => if v = resetByte then [] else [(a, v)]
  | (k, w) :: m, a, v =>
    if a < k then if v = resetByte then (k, w) :: m else (a, v) :: (k, w) :: m
    else if a = k then if v = resetByte then m else (a, v) :: m
    else (k, w) :: Memory.wr8 m a v

/-- The canonical form from address `lo` on: addresses strictly rising, no cell that reads as an unlisted address does. -/
def Memory.wfFrom (lo : Nat) : Memory → Bool
  | [] => true
  | (k, v) :: m => decide (lo ≤ k) && decide (v ≠ resetByte) && Memory.wfFrom (k + 1) m

/-- Memory is in its canonical form. -/
def Memory.wf (m : Memory) : Bool := Memory.wfFrom 0 m

/-- Every listed address is one of an array of `size` bytes (R60). -/
def Memory.inside (m : Memory) (size : Nat) : Bool := m.all fun cell => decide (cell.1 < size)

/-- The bytes at `a`, `a + 1`, … of an image put into memory in that order (R62). -/
def Memory.load : Memory → Nat → List Byte → Memory
  | m, _, [] => m
  | m, a, b :: bs => Memory.load (m.wr8 a b) (a + 1) bs

/-- The `n` bytes at `a`, `a + 1`, … with no masking, in address order (R70). -/
def Memory.bytesFrom (m : Memory) (a : Nat) : Nat → List Byte
  | 0 => []
  | n + 1 => m.rd8 a :: Memory.bytesFrom m (a + 1) n

/-- The address decoder (R64): byte `i` of a data access, the sum exact and the mask applied last; each byte is masked
on its own (D15, log entry 15). -/
def dataAddr (c : Config) (base : Byte) (imm : Word16) (i : Nat) : Nat := (base.toNat + imm.toNat + i) &&& c.addrMask

/-- `MemRead` (R13): the bytes 0 to n-1 of a data access, in ascending order, as a little-endian integer. -/
def Memory.readData (m : Memory) (c : Config) (base : Byte) (imm : Word16) (n : Nat) : Word32 :=
  leWord ((List.range n).map fun i => m.rd8 (dataAddr c base imm i))

/-- `MemWrite` (R13): byte `v[8i+7:8i]` to byte `i` of a data access, in ascending order. -/
def Memory.writeData (m : Memory) (c : Config) (base : Byte) (imm : Word16) (n : Nat) (v : Word32) : Memory :=
  (List.range n).foldl (fun m i => m.wr8 (dataAddr c base imm i) (v.extractLsb' (8 * i) 8)) m

/-! ## The register file (R33) -/

/-- `read(i)`: x[r] (R12, R33). -/
def State.readReg (s : State) (r : Reg) : Byte := s.regs[r]

/-- `write(i, v)`: x[r] <- v (R12, R33). No register is hardwired (R30). -/
def State.writeReg (s : State) (r : Reg) (v : Byte) : State := { s with regs := s.regs.set r v }

/-! ## The program counter (R38) -/

/-- `mod_16` of an exact integer (R10, R14; every pc write by D31, log entry 22). -/
def mod16 (t : Int) : Word16 := BitVec.ofInt 16 t

/-- `next_pc = mod_16(pc + len)` (R35, R121). -/
def State.nextPc (s : State) (len : Nat) : Word16 := mod16 (s.pc.toNat + len)

/-- `pc <- t`. -/
def State.setPc (s : State) (t : Word16) : State := { s with pc := t }

/-- `M <- m`. -/
def State.setMem (s : State) (m : Memory) : State := { s with mem := m }

/-- `run <- r`. -/
def State.setRun (s : State) (r : RunState) : State := { s with run := r }

/-- What fetching records (R41): lastPC <- pc, and lastWord <- the bytes fetched (D18, log entry 18). -/
def State.recordFetch (s : State) (w : Word32) : State := { s with lastPC := s.pc, lastWord := w }

/-- The completed step is counted (R42); a refused step is not (R120, R249). -/
def State.countStep (s : State) : State :=
  if s.run = .refused then s else { s with steps := s.steps + 1 }

/-! ## Errors -/

/-- The numeric code of an error kind (R240: D22, log entry 30). -/
def ErrorKind.code : ErrorKind → Nat
  | .unknownInstruction => 1
  | .pcOutOfBounds _ => 2
  | .divisionByZero => 3
  | .stackOverflow => 4
  | .stackUnderflow => 5

/-- TAKING A FATAL ERROR, `raise K` (R14, R243): run <- Faulted(kind), lastPC and lastWord as fetched so far, and nothing
else: pc, registers, memory and the step count keep their values (R246, R252). There is no return from it (R253): only
a reset leaves a terminal state (R247). -/
def State.raiseFatal (s : State) (kind : ErrorKind) (fetched : Word32) : State :=
  (s.recordFetch fetched).setRun (.faulted kind)

/-- The recoverable DivisionByZero (R244): the pc of the DIV or DIVI is appended to divErrors (D20, log entry 20). -/
def State.recordDivError (s : State) : State := { s with divErrors := s.divErrors ++ [s.pc] }

/-! ## The program region (R67) -/

/-- `inRegion(a)`: PROG_BASE <= a < PROG_LIMIT, `a` an exact integer (R67, R120). -/
def inRegion (c : Config) (a : Nat) : Bool := decide (c.progBase.toNat ≤ a ∧ a < c.progLimit)

end Sys2Proof.Machine
end

