-- ==== Sys2Proof/Machine/Operands.lean ====
section
/-! DEFINITION. How each format's raw operand field is used (spec 30_encoding.md R101), and the operand forms of the
register pair (42_load_store.md R191) and of the targets and links (10_state.md R38, 43_control.md R221). -/

namespace Sys2Proof.Machine

/-- I format, ALU: `imm[7:0]`, the immediate masked to 8 bits (R101, R153). -/
def aluImm (imm : Word16) : Byte := imm.setWidth 8

/-- Shift-immediate: `shamt & 0x1F` (R98, R101, R161). -/
def shiftAmount (shamt : Byte) : Byte := shamt &&& 0x1F

/-- `pair(r) = (r + 1) mod 16` (R191). -/
def pairReg (r : Reg) : Reg := r + 1

/-- Whether the pair of `r` has a meaning: not for r15 under PAIR_WRAP = refuse (R191: D14, log entry 10). -/
def pairAllowed (c : Config) (r : Reg) : Bool :=
  match c.pairWrap with
  | .wrap => true
  | .refuse => r != 15

/-- LUI's value: `(imm >> 8) & 0xFF` (R101, R180). -/
def luiValue (imm : Word16) : Byte := imm.extractLsb' 8 8

/-- AUIPC's value: `((next_pc + (imm << 8)) >> 8) & 0xFF`, the sum exact (R101, R181). -/
def auipcValue (nextPc imm : Word16) : Byte := BitVec.ofNat 8 ((nextPc.toNat + imm.toNat <<< 8) >>> 8)

/-- A taken branch's target: `mod_16(next_pc + sext_16(imm))` (R38, R210). -/
def branchTarget (nextPc imm : Word16) : Word16 := mod16 (nextPc.toNat + imm.toInt)

/-- JAL's target: `mod_16(next_pc + sext_20(imm))` (R38, R220). -/
def jalTarget (nextPc : Word16) (imm : BitVec 20) : Word16 := mod16 (nextPc.toNat + imm.toInt)

/-- JALR's target: `mod_16(x + sext_16(imm)) & 0xFFFE` (R38, R222). -/
def jalrTarget (base : Byte) (imm : Word16) : Word16 := mod16 (base.toNat + imm.toInt) &&& 0xFFFE

/-- What JAL and JALR write to rd: `(next_pc >> 8) & 0xFF`, the high byte of the return address only (R221). -/
def linkValue (nextPc : Word16) : Byte := nextPc.extractLsb' 8 8

end Sys2Proof.Machine
end

