-- ==== Sys2Proof/Machine/Alu.lean ====
section
/-! DEFINITION. The ALU (spec 40_alu.md R140 to R142) and the R-type, I-type and shift-immediate instructions
(R143 to R163). -/

namespace Sys2Proof.Machine

/-- The ALU's operations (R140). -/
inductive AluOp where
  | add | sub | mul | div | and | or | xor | sll | srl
  deriving DecidableEq, Repr

/-- The ALU's result: a u8, or DivZero, which only DIV returns (R140). -/
inductive AluResult where
  | ok (v : Byte)
  | divZero
  deriving DecidableEq, Repr

/-- The ALU (R140, R141): a pure function, every result modulo 256 (R142). DIV is unsigned (D10, log entry 12), and a
shift takes the whole amount, so that 8 or more gives 0 (D11, log entry 13). -/
def alu (op : AluOp) (a b : Byte) : AluResult :=
  match op with
  | .add => .ok (a + b)
  | .sub => .ok (a - b)
  | .mul => .ok (a * b)
  | .div => if b = 0 then .divZero else .ok (a / b)
  | .and => .ok (a &&& b)
  | .or => .ok (a ||| b)
  | .xor => .ok (a ^^^ b)
  | .sll => .ok (a <<< b.toNat)
  | .srl => .ok (a >>> b.toNat)

/-- The end of every ALU instruction: x[rd] <- r, or on DivZero the error recorded and x[rd] unchanged (R147, R157), then
pc <- next_pc (R121). -/
def State.finishAlu (s : State) (rd : Reg) (r : AluResult) (len : Nat) : State :=
  match r with
  | .ok v => (s.writeReg rd v).setPc (s.nextPc len)
  | .divZero => s.recordDivError.setPc (s.nextPc len)

/-- The R-type common form, 3 bytes: both sources are read before the write (R143). -/
def aluReg (op : AluOp) (rd rs1 rs2 : Reg) (s : State) : State :=
  s.finishAlu rd (alu op (s.readReg rs1) (s.readReg rs2)) 3

/-- The I-type common form, 4 bytes, with `imm & 0xFF` (R153). -/
def aluImmediate (op : AluOp) (rd rs1 : Reg) (imm : Word16) (s : State) : State :=
  s.finishAlu rd (alu op (s.readReg rs1) (aluImm imm)) 4

/-- The shift-immediate common form, 4 bytes, with `shamt & 0x1F` (R161). -/
def aluShift (op : AluOp) (rd rs1 : Reg) (shamt : Byte) (s : State) : State :=
  s.finishAlu rd (alu op (s.readReg rs1) (shiftAmount shamt)) 4

/-! ## R-type -/

/-- ADD rd, rs1, rs2 (R144). -/
def execAdd (rd rs1 rs2 : Reg) (s : State) : Host.Outcome State Fault Refusal :=
  .next (aluReg .add rd rs1 rs2 s)

/-- SUB rd, rs1, rs2 (R145). -/
def execSub (rd rs1 rs2 : Reg) (s : State) : Host.Outcome State Fault Refusal :=
  .next (aluReg .sub rd rs1 rs2 s)

/-- MUL rd, rs1, rs2 (R146). -/
def execMul (rd rs1 rs2 : Reg) (s : State) : Host.Outcome State Fault Refusal :=
  .next (aluReg .mul rd rs1 rs2 s)

/-- DIV rd, rs1, rs2 (R147; by zero the destination keeps its value and the error is recorded, R244). -/
def execDiv (rd rs1 rs2 : Reg) (s : State) : Host.Outcome State Fault Refusal :=
  .next (aluReg .div rd rs1 rs2 s)

/-- AND rd, rs1, rs2 (R148). -/
def execAnd (rd rs1 rs2 : Reg) (s : State) : Host.Outcome State Fault Refusal :=
  .next (aluReg .and rd rs1 rs2 s)

/-- OR rd, rs1, rs2 (R149). -/
def execOr (rd rs1 rs2 : Reg) (s : State) : Host.Outcome State Fault Refusal :=
  .next (aluReg .or rd rs1 rs2 s)

/-- XOR rd, rs1, rs2 (R150). -/
def execXor (rd rs1 rs2 : Reg) (s : State) : Host.Outcome State Fault Refusal :=
  .next (aluReg .xor rd rs1 rs2 s)

/-- SLL rd, rs1, rs2 (R151; the amount is the whole register). -/
def execSll (rd rs1 rs2 : Reg) (s : State) : Host.Outcome State Fault Refusal :=
  .next (aluReg .sll rd rs1 rs2 s)

/-- SRL rd, rs1, rs2 (R152; a logical shift, the amount is the whole register). -/
def execSrl (rd rs1 rs2 : Reg) (s : State) : Host.Outcome State Fault Refusal :=
  .next (aluReg .srl rd rs1 rs2 s)

/-! ## I-type -/

/-- ADDI rd, rs1, imm (R154). -/
def execAddi (rd rs1 : Reg) (imm : Word16) (s : State) : Host.Outcome State Fault Refusal :=
  .next (aluImmediate .add rd rs1 imm s)

/-- SUBI rd, rs1, imm (R155). -/
def execSubi (rd rs1 : Reg) (imm : Word16) (s : State) : Host.Outcome State Fault Refusal :=
  .next (aluImmediate .sub rd rs1 imm s)

/-- MULI rd, rs1, imm (R156). -/
def execMuli (rd rs1 : Reg) (imm : Word16) (s : State) : Host.Outcome State Fault Refusal :=
  .next (aluImmediate .mul rd rs1 imm s)

/-- DIVI rd, rs1, imm (R157; the mask comes before the test for zero). -/
def execDivi (rd rs1 : Reg) (imm : Word16) (s : State) : Host.Outcome State Fault Refusal :=
  .next (aluImmediate .div rd rs1 imm s)

/-- ANDI rd, rs1, imm (R158). -/
def execAndi (rd rs1 : Reg) (imm : Word16) (s : State) : Host.Outcome State Fault Refusal :=
  .next (aluImmediate .and rd rs1 imm s)

/-- ORI rd, rs1, imm (R159). -/
def execOri (rd rs1 : Reg) (imm : Word16) (s : State) : Host.Outcome State Fault Refusal :=
  .next (aluImmediate .or rd rs1 imm s)

/-- XORI rd, rs1, imm (R160). -/
def execXori (rd rs1 : Reg) (imm : Word16) (s : State) : Host.Outcome State Fault Refusal :=
  .next (aluImmediate .xor rd rs1 imm s)

/-! ## Shift-immediate -/

/-- SLLI rd, rs1, shamt (R162). -/
def execSlli (rd rs1 : Reg) (shamt : Byte) (s : State) : Host.Outcome State Fault Refusal :=
  .next (aluShift .sll rd rs1 shamt s)

/-- SRLI rd, rs1, shamt (R163; a logical shift). -/
def execSrli (rd rs1 : Reg) (shamt : Byte) (s : State) : Host.Outcome State Fault Refusal :=
  .next (aluShift .srl rd rs1 shamt s)

end Sys2Proof.Machine
end

