-- ==== Sys2Proof/Machine/Flags.lean ====
section
/-! DEFINITION. The machine has NO flags and no condition codes (spec 10_state.md R39): no instruction reads or writes one.
What other machines take from flags, the branches take from a comparison of two registers, and it stands here
(43_control.md R210, R211). -/

namespace Sys2Proof.Machine

/-- The conditions of the six branches (R212 to R217). -/
inductive Cond where
  | eq | ne | lt | gt | le | ge
  deriving DecidableEq, Repr

/-- `s8`: an 8-bit value read as two's complement (R11, R211; log entry 31). -/
def s8 (v : Byte) : Int := v.toInt

/-- `cond(a, b)` on the signed values of two registers (R211 to R217). -/
def Cond.holds (c : Cond) (a b : Byte) : Bool :=
  match c with
  | .eq => decide (s8 a = s8 b)
  | .ne => decide (s8 a ≠ s8 b)
  | .lt => decide (s8 a < s8 b)
  | .gt => decide (s8 a > s8 b)
  | .le => decide (s8 a ≤ s8 b)
  | .ge => decide (s8 a ≥ s8 b)

end Sys2Proof.Machine
end

