-- ==== Sys2Proof/Machine/Control.lean ====
section
/-! DEFINITION. The branches and jumps (spec 43_control.md R210 to R224). A target is not checked when it is computed: one
outside the program region raises PcOutOfBounds at the next step's fetch (R224). -/

namespace Sys2Proof.Machine

/-- The branch common form (R210): no register is written and there is no delay slot (R223). -/
def branchIf (c : Cond) (rs1 rs2 : Reg) (imm : Word16) (s : State) : State :=
  s.setPc (if c.holds (s.readReg rs1) (s.readReg rs2) then branchTarget (s.nextPc 4) imm else s.nextPc 4)

/-- BEQ rs1, rs2, imm (R212). -/
def execBeq (rs1 rs2 : Reg) (imm : Word16) (s : State) : Host.Outcome State Fault Refusal :=
  .next (branchIf .eq rs1 rs2 imm s)

/-- BNE rs1, rs2, imm (R213). -/
def execBne (rs1 rs2 : Reg) (imm : Word16) (s : State) : Host.Outcome State Fault Refusal :=
  .next (branchIf .ne rs1 rs2 imm s)

/-- BLT rs1, rs2, imm (R214). -/
def execBlt (rs1 rs2 : Reg) (imm : Word16) (s : State) : Host.Outcome State Fault Refusal :=
  .next (branchIf .lt rs1 rs2 imm s)

/-- BGT rs1, rs2, imm (R215). -/
def execBgt (rs1 rs2 : Reg) (imm : Word16) (s : State) : Host.Outcome State Fault Refusal :=
  .next (branchIf .gt rs1 rs2 imm s)

/-- BLE rs1, rs2, imm (R216). -/
def execBle (rs1 rs2 : Reg) (imm : Word16) (s : State) : Host.Outcome State Fault Refusal :=
  .next (branchIf .le rs1 rs2 imm s)

/-- BGE rs1, rs2, imm (R217). -/
def execBge (rs1 rs2 : Reg) (imm : Word16) (s : State) : Host.Outcome State Fault Refusal :=
  .next (branchIf .ge rs1 rs2 imm s)

/-- JAL rd, imm20 (R220). -/
def execJal (rd : Reg) (imm : BitVec 20) (s : State) : Host.Outcome State Fault Refusal :=
  .next ((s.writeReg rd (linkValue (s.nextPc 4))).setPc (jalTarget (s.nextPc 4) imm))

/-- JALR rd, rs1, imm16 (R222): rd is written BEFORE rs1 is read (D16, log entry 16). -/
def execJalr (rd rs1 : Reg) (imm : Word16) (s : State) : Host.Outcome State Fault Refusal :=
  let linked := s.writeReg rd (linkValue (s.nextPc 4))
  .next (linked.setPc (jalrTarget (linked.readReg rs1) imm))

end Sys2Proof.Machine
end

