-- ==== Sys2Proof/Machine/LoadStore.lean ====
section
/-! DEFINITION. The loads and stores (spec 42_load_store.md R190 to R198): one addressing mode, base register plus a 16-bit
immediate, every byte masked to the window of ADDR_MASK (4 KB by default); no alignment, no fault (20_memory.md R68, R73). -/

namespace Sys2Proof.Machine

/-- The end of every store: `MemWrite` of the low `n` bytes of `v` at x[rs1] + imm, then pc <- next_pc (R190). -/
def State.finishStore (s : State) (rs1 : Reg) (imm : Word16) (n : Nat) (v : Word32) : State :=
  (s.setMem (s.mem.writeData s.cfg (s.readReg rs1) imm n v)).setPc (s.nextPc 4)

/-- `MemRead` of `n` bytes at x[rs1] + imm (R190). -/
def State.loadData (s : State) (rs1 : Reg) (imm : Word16) (n : Nat) : Word32 :=
  s.mem.readData s.cfg (s.readReg rs1) imm n

/-- Byte `i` of a loaded value: the loads do no extension, each byte is copied whole into one register (R192). -/
def loadedByte (v : Word32) (i : Nat) : Byte := v.extractLsb' (8 * i) 8

/-- The value SW stores: `x[pair(rs2)] ++ x[rs2]` zero-extended to 32 bits (R195: D12, log entry 14). -/
def State.pairValue (s : State) (rs2 : Reg) : Word32 :=
  (s.readReg (pairReg rs2)).setWidth 32 <<< 8 ||| (s.readReg rs2).setWidth 32

/-- SB rs1, rs2, imm (R193). -/
def execSb (rs1 rs2 : Reg) (imm : Word16) (s : State) : Host.Outcome State Fault Refusal :=
  .next (s.finishStore rs1 imm 1 ((s.readReg rs2).setWidth 32))

/-- SH rs1, rs2, imm (R194): the register's byte zero-extended to 16 bits (D12, log entry 14). -/
def execSh (rs1 rs2 : Reg) (imm : Word16) (s : State) : Host.Outcome State Fault Refusal :=
  .next (s.finishStore rs1 imm 2 ((s.readReg rs2).setWidth 32))

/-- SW rs1, rs2, imm (R195); with rs2 = 15 under PAIR_WRAP = refuse the run becomes Refused and nothing else is written
(R191, R249). -/
def execSw (rs1 rs2 : Reg) (imm : Word16) (s : State) : Host.Outcome State Fault Refusal :=
  if pairAllowed s.cfg rs2 then .next (s.finishStore rs1 imm 4 (s.pairValue rs2))
  else .next (s.setRun .refused)

/-- LB rd, rs1, imm (R196): the address is formed from the old rs1. -/
def execLb (rd rs1 : Reg) (imm : Word16) (s : State) : Host.Outcome State Fault Refusal :=
  .next ((s.writeReg rd (loadedByte (s.loadData rs1 imm 1) 0)).setPc (s.nextPc 4))

/-- LH rd, rs1, imm (R197): the low byte is kept, the high byte read and dropped (D13, log entry 14). -/
def execLh (rd rs1 : Reg) (imm : Word16) (s : State) : Host.Outcome State Fault Refusal :=
  .next ((s.writeReg rd (loadedByte (s.loadData rs1 imm 2) 0)).setPc (s.nextPc 4))

/-- LW rd, rs1, imm (R198): bytes 0 and 1 to rd and pair(rd), in that order, bytes 2 and 3 read and dropped (D13, log
entry 14); with rd = 15 under PAIR_WRAP = refuse the run becomes Refused and nothing else is written (R191, R249). -/
def execLw (rd rs1 : Reg) (imm : Word16) (s : State) : Host.Outcome State Fault Refusal :=
  if pairAllowed s.cfg rd then
    .next (((s.writeReg rd (loadedByte (s.loadData rs1 imm 4) 0)).writeReg (pairReg rd)
      (loadedByte (s.loadData rs1 imm 4) 1)).setPc (s.nextPc 4))
  else .next (s.setRun .refused)

end Sys2Proof.Machine
end

