-- ==== Sys2Proof/Machine/System.lean ====
section
/-! DEFINITION. HALT, the only system instruction (spec 44_system.md R230, R233). -/

namespace Sys2Proof.Machine

/-- HALT (R230): run <- Halted; no register, memory or pc effect (pc unchanged by D17, log entry 17). -/
def execHalt (s : State) : Host.Outcome State Fault Refusal :=
  .next (s.setRun .halted)

end Sys2Proof.Machine
end

