-- ==== Sys2Proof/Machine/UpperImm.lean ====
section
/-! DEFINITION. The upper-immediate instructions (spec 41_upper_imm.md R180, R181). -/

namespace Sys2Proof.Machine

/-- LUI rd, imm (R180): the whole 8-bit register takes imm[15:8]. -/
def execLui (rd : Reg) (imm : Word16) (s : State) : Host.Outcome State Fault Refusal :=
  .next ((s.writeReg rd (luiValue imm)).setPc (s.nextPc 4))

/-- AUIPC rd, imm (R181): it uses next_pc, not its own address. -/
def execAuipc (rd : Reg) (imm : Word16) (s : State) : Host.Outcome State Fault Refusal :=
  .next ((s.writeReg rd (auipcValue (s.nextPc 4) imm)).setPc (s.nextPc 4))

end Sys2Proof.Machine
end

