-- ==== Sys2Proof/WellFormed.lean ====
section
/-! DEFINITION. Which instructions are well formed (what the encoder writes in full, spec 30_encoding.md R127), which ISA
tables are legal (R104, R106, R107) and which parameters a machine can start with (00_scope.md R8). -/

namespace Sys2Proof

/-- A shift amount fits the 5 bits that the encoder writes (R98, R127; log entry 29). Every other operand is typed to its
field's width, so nothing else of an instruction can be ill formed. -/
def Instr.wf : Instr → Bool
  | .slli _ _ shamt => shamt.toNat < 32
  | .srli _ _ shamt => shamt.toNat < 32
  | _ => true

/-- Every mnemonic has exactly one row (R104). -/
def IsaTable.complete (t : IsaTable) : Bool :=
  Mnemonic.all.all fun m => (t.filter fun r => r.mnemonic == m).length == 1

/-- R106 (a): the pair (opcode, funct3) is unique among the rows with no funct4, the triple among those with one. -/
def IsaTable.unambiguous (t : IsaTable) : Bool :=
  decide <| t.Pairwise fun r q => ¬ (r.opcode = q.opcode ∧ r.funct3 = q.funct3 ∧ r.funct4 = q.funct4)

/-- R106 (b): no selector byte is used both with a funct4 and without one. -/
def IsaTable.selectorsApart (t : IsaTable) : Bool :=
  t.all fun r => t.all fun q => r.sel != q.sel || r.funct4.isSome == q.funct4.isSome

/-- R106 (c): exactly the instructions that R100 marks "yes" have a funct4. -/
def IsaTable.funct4AsFormat (t : IsaTable) : Bool :=
  t.all fun r => r.funct4.isSome == r.mnemonic.format.usesFunct4

/-- R107: no row has the reserved selector 0x00. -/
def IsaTable.noZeroSelector (t : IsaTable) : Bool :=
  t.all fun r => r.sel != 0

/-- What every ISA table meets (R104, R106, R107). -/
def IsaTable.valid (t : IsaTable) : Bool :=
  t.complete && t.unambiguous && t.selectorsApart && t.funct4AsFormat && t.noZeroSelector

/-- The size and the mask agree, MEM_SIZE = ADDR_MASK + 1: the spec defines no other pair (R8, R60: D3, log entry 11). -/
def Config.memoryDefined (c : Config) : Bool := c.memSize == c.addrMask + 1

/-- The memory has `2 ^ k` bytes and the mask agrees with it (R60, R66). The pair the spec gives, 4096 and 0x0FFF, is
`k = 12` (D3, log entry 11). -/
def Config.memoryBits (c : Config) (k : Nat) : Prop := c.memSize = 2 ^ k ∧ c.addrMask + 1 = c.memSize

/-- A ROM image fits the memory: PROG_BASE + ROM_LEN <= MEM_SIZE (R62, R273). -/
def Config.romFits (c : Config) : Bool := decide (c.progLimit ≤ c.memSize)

/-- The parameters a machine of this spec has: a legal table, a size and a mask that agree, a ROM that fits, a positive
ceiling (R8, R62, R106). -/
def Config.wf (c : Config) : Bool :=
  IsaTable.valid c.isa && c.memoryDefined && c.romFits && decide (0 < c.maxSteps)

end Sys2Proof
end

