-- ==== Sys2Proof/Machine/Cycle.lean ====
section
/-! DEFINITION. One step of the block (spec 30_encoding.md R120): fetch, classify, decode, execute, with the order of
checks of 60_exceptions.md R250. -/

namespace Sys2Proof.Machine

/-- What fetching, classifying and reading the whole word of the instruction at pc gives: a descriptor and the word, or
a fatal error and the bytes fetched before it. -/
inductive FetchResult where
  | ok (d : Descriptor) (w : Word32)
  | error (kind : ErrorKind) (fetched : Word32)
  deriving DecidableEq, Repr

/-- The first of the `n` addresses from `a` on that is outside the program region (R67, R120). -/
def firstOutside (c : Config) (a : Nat) : Nat → Option Nat
  | 0 => none
  | n + 1 => if inRegion c a then firstOutside c (a + 1) n else some a

/-- The Decoding phase once the classifier has answered (R120): UnknownInstruction if it found nothing, else every byte
of the instruction is checked before the word is fetched (R250 items 4 and 5). -/
def fetchWhole (s : State) (d : Option Descriptor) (fetched : Word32) : FetchResult :=
  match d with
  | none => .error .unknownInstruction fetched
  | some d =>
    match firstOutside s.cfg s.pc.toNat d.lenBytes with
    | some bad => .error (.pcOutOfBounds bad) fetched
    | none => .ok d (leWord (s.mem.bytesFrom s.pc.toNat d.lenBytes))

/-- The Fetching and Classifying phases (R112, R120): byte0 at pc, then byte1 for a funct4 selector only. -/
def fetch (s : State) : FetchResult :=
  let p := s.pc.toNat
  if !inRegion s.cfg p then .error (.pcOutOfBounds p) 0
  else
    let b0 := s.mem.rd8 p
    if isFunct4Selector s.cfg.isa b0 then
      if !inRegion s.cfg (p + 1) then .error (.pcOutOfBounds (p + 1)) (leWord [b0])
      else
        let b1 := s.mem.rd8 (p + 1)
        fetchWhole s (classify s.cfg.isa b0 (some b1)) (leWord [b0, b1])
    else fetchWhole s (classify s.cfg.isa b0 none) (leWord [b0])

/-- The step of R120 from a Running state: the ceiling (R248), then fetching, then executing the decoded instruction and
counting the step. -/
def cycle (s : State) : Host.Outcome State Fault Refusal :=
  if s.cfg.maxSteps ≤ s.steps then .next (s.setRun .ceilingReached)
  else
    match fetch s with
    | .error kind fetched => .next (s.raiseFatal kind fetched)
    | .ok d w =>
      match exec (decodeFields w d).toInstr (s.recordFetch w) with
      | .next t => .next t.countStep
      | .fault r => .fault r
      | .refused r => .refused r

/-- The step from any state: none from a terminal run state (R247: D27, log entry 7), none with a size and a mask
that do not agree (D3, log entry 11), none with a ROM that does not fit (R62: D30, log entry 9), else `cycle`. -/
def stepAny (s : State) : Host.Outcome State Fault Refusal :=
  match s.run with
  | .running =>
    if !s.cfg.memoryDefined then .refused .memoryPairUndefined
    else if !s.cfg.romFits then .refused .romDoesNotFit
    else cycle s
  | .halted => .fault (.stopped .halted)
  | .faulted kind => .fault (.stopped (.faulted kind))
  | .ceilingReached => .fault (.stopped .ceilingReached)
  | .refused => .fault (.stopped .refused)

/-- The four bytes of an instruction whose bits are `w`, those from `nbits` up 0, put at pc, with the program region
grown to hold them and the machine able to take a step (log entry 27). -/
def placeAtPc (s : State) (nbits w : Nat) : State :=
  let p := s.pc.toNat
  let base := if s.pc < s.cfg.progBase then s.pc else s.cfg.progBase
  { s with
    mem := s.mem.load p (leBytes 4 (BitVec.ofNat 32 (w % 2 ^ nbits)))
    run := .running
    steps := if s.steps < s.cfg.maxSteps then s.steps else 0
    cfg := { s.cfg with
      progBase := base
      romLen := max s.cfg.progLimit (p + 4) - base.toNat } }

end Sys2Proof.Machine
end

