-- ==== Sys2Proof/Machine/Step.lean ====
section
/-! DEFINITION. One step of the machine, and the placing of one instruction where it fetches next. -/

namespace Sys2Proof.Machine

/-- One step (spec 30_encoding.md R120, 60_exceptions.md R247). -/
def step (s : State) : Host.Outcome State Fault Refusal := stepAny s

/-- The state with one instruction's bits where `step` fetches next: it stands for the host's load of a program (log
entries 5 and 27). -/
def State.withFetchWord (s : State) (nbits w : Nat) : State := placeAtPc s nbits w

end Sys2Proof.Machine
end

