-- ==== Sys2Proof/Machine/Boot.lean ====
section
/-! DEFINITION. The host's load and reset (spec 60_exceptions.md R261, 70_reset_and_hazards.md R270 to R273). -/

namespace Sys2Proof.Machine

/-- Loading a ROM image and resetting (R62, R270, R273), with every parameter of R8 given: R270's state with the image at
PROG_BASE, or the refusal of an image that does not fit (D30, log entry 9) or of a size and a mask that do not agree (D3,
log entry 11). A reset during a run is the same with the same image, whatever the state before it (R272): the changes a
program made to memory are lost. -/
def boot (c : Config) (rom : List Byte) : Host.Outcome State Fault Refusal :=
  let loaded : Config := { c with romLen := rom.length }
  if !loaded.memoryDefined then .refused .memoryPairUndefined
  else if !loaded.romFits then .refused .romDoesNotFit
  else
    .next { State.reset with
      pc := c.progBase
      mem := Memory.load [] c.progBase.toNat rom
      cfg := loaded }

end Sys2Proof.Machine
end

