-- ==== Sys2Proof/Safety.lean ====
section
/-! DEFINITION. The terms in which claims are stated: what a legal state is, what an instruction reads, writes and stores
to, and what "unchanged" means. -/

namespace Sys2Proof.Machine

/-! ## Legal states -/

/-- The run states the machine can be in (spec 10_state.md R40): the fatal kinds are UnknownInstruction, and
PcOutOfBounds of an address outside the program region (60_exceptions.md R240, R242, R245); Refused only under
PAIR_WRAP = refuse (R249). -/
def RunState.legal (c : Config) : RunState → Bool
  | .running | .halted | .ceilingReached => true
  | .faulted .unknownInstruction => true
  | .faulted (.pcOutOfBounds a) => !inRegion c a
  | .faulted .divisionByZero | .faulted .stackOverflow | .faulted .stackUnderflow => false
  | .refused => c.pairWrap == .refuse

/-- The run ended at the instruction that the last step fetched: HALT, a fatal error, or a refused form. -/
def RunState.endedAtFetch : RunState → Bool
  | .halted | .faulted _ | .refused => true
  | .running | .ceilingReached => false

/-- The invariant of the machine: memory canonical and inside the array (R60), legal parameters (R8, R60, R62, R106), a legal
run state, no step counted above the ceiling (R248), no more division errors than steps (R43, R244), and the diagnostic
pc at the instruction that ended the run (R243, R230). -/
structure State.Inv (s : State) : Prop where
  memCanonical : s.mem.wf = true
  memInside : s.mem.inside s.cfg.memSize = true
  cfgLegal : s.cfg.wf = true
  runLegal : s.run.legal s.cfg = true
  stepsBounded : s.steps ≤ s.cfg.maxSteps
  divErrorsCounted : s.divErrors.length ≤ s.steps
  ceilingExact : s.run = .ceilingReached → s.steps = s.cfg.maxSteps
  diagnosticPc : s.run.endedAtFetch = true → s.lastPC = s.pc

/-- A state from which `step` runs an instruction: Running, below the ceiling, with a size and a mask that agree and a ROM
that fits (R60, R62, R120, R248). -/
def State.ready (s : State) : Prop :=
  s.run = .running ∧ s.steps < s.cfg.maxSteps ∧ s.cfg.memoryDefined = true ∧ s.cfg.romFits = true

/-! ## What stays the same -/

/-- Every byte of memory reads as before. -/
def SameMemory (s t : State) : Prop := ∀ a, t.mem.rd8 a = s.mem.rd8 a

/-- Every general register is as before. -/
def SameRegs (s t : State) : Prop := ∀ r, t.readReg r = s.readReg r

/-- The reserved state (R44 to R46) and the parameters are as before. -/
def SameInert (s t : State) : Prop :=
  t.index = s.index ∧ t.stack = s.stack ∧ t.sp = s.sp ∧ t.timer0 = s.timer0 ∧ t.timer1 = s.timer1 ∧ t.cfg = s.cfg

/-- The diagnostic registers and the step count (R41, R42) are as before. -/
def SameRecords (s t : State) : Prop := t.lastPC = s.lastPC ∧ t.lastWord = s.lastWord ∧ t.steps = s.steps

/-- Everything but registers, pc and memory is as before. -/
def SameRest (s t : State) : Prop :=
  t.run = s.run ∧ t.divErrors = s.divErrors ∧ SameRecords s t ∧ SameInert s t

/-- `t` is `s` with register `rd` holding the number `v` and the pc holding `p`; everything else is as before. -/
def WritesRegJumps (s t : State) (rd : Reg) (v p : Nat) : Prop :=
  (t.readReg rd).toNat = v ∧ (∀ r, r ≠ rd → t.readReg r = s.readReg r) ∧ t.pc.toNat = p ∧ SameMemory s t ∧
    SameRest s t

/-- `t` is `s` with register `rd` holding the number `v` and the pc moved past an instruction of `len` bytes, modulo
2^16; everything else is as before. -/
def WritesReg (s t : State) (rd : Reg) (v len : Nat) : Prop :=
  WritesRegJumps s t rd v ((s.pc.toNat + len) % 65536)

/-- `t` is `s` with the pc changed to `p` and nothing else. -/
def MovesPc (s t : State) (p : Nat) : Prop :=
  t.pc.toNat = p ∧ SameRegs s t ∧ SameMemory s t ∧ SameRest s t

/-- `t` is `s` with the bytes `bs` stored at x[rs1] + imm, byte `i` at the address that the address decoder gives for it
(20_memory.md R64), and the pc moved past the 4 bytes of the store; every other byte of memory and everything else is as
before. -/
def StoresBytes (s t : State) (rs1 : Reg) (imm : Word16) (bs : List Byte) : Prop :=
  (∀ i, (h : i < bs.length) → t.mem.rd8 (dataAddr s.cfg (s.readReg rs1) imm i) = bs[i]) ∧
    (∀ a, (∀ i, i < bs.length → a ≠ dataAddr s.cfg (s.readReg rs1) imm i) → t.mem.rd8 a = s.mem.rd8 a) ∧
    t.pc.toNat = (s.pc.toNat + 4) % 65536 ∧ SameRegs s t ∧ SameRest s t

/-- `t` is `s` with the run state `r` and nothing else changed. -/
def EndsRun (s t : State) (r : RunState) : Prop :=
  t.run = r ∧ t.pc = s.pc ∧ SameRegs s t ∧ SameMemory s t ∧ t.divErrors = s.divErrors ∧ SameRecords s t ∧ SameInert s t

/-- `t` is what a fatal error of this kind leaves of `s` (60_exceptions.md R243, R246): the run state, and lastPC and
lastWord of the fetch; nothing else is changed. -/
def EndsFaulted (s t : State) (kind : ErrorKind) (fetched : Nat) : Prop :=
  t.run = .faulted kind ∧ t.lastPC = s.pc ∧ t.lastWord.toNat = fetched ∧ t.pc = s.pc ∧ SameRegs s t ∧ SameMemory s t ∧
    t.divErrors = s.divErrors ∧ t.steps = s.steps ∧ SameInert s t

/-- The value of a field of `bits` bits read as two's complement (00_scope.md R11). -/
def twos (bits v : Nat) : Int := if v < 2 ^ (bits - 1) then (v : Int) else (v : Int) - 2 ^ bits

/-- An exact integer written to the pc: modulo 2^16 (00_scope.md R14). -/
def pcOf (n : Int) : Nat := (n % 65536).toNat

/-- The instruction has this format and length in bytes (30_encoding.md R100). -/
def EncodedAs (i : Instr) (f : Format) (len : Nat) : Prop := i.mnemonic.format = f ∧ i.len = len

/-- The two states differ at most in the register `r`. -/
def AgreeExcept (r : Reg) (s t : State) : Prop :=
  (∀ q, q ≠ r → t.readReg q = s.readReg q) ∧ t.pc = s.pc ∧ t.mem = s.mem ∧ SameRest s t

/-! ## What an instruction reads, writes and stores to -/

/-- The registers an instruction reads (10_state.md R31). -/
def readsOf : Instr → List Reg
  | .add _ rs1 rs2 | .sub _ rs1 rs2 | .mul _ rs1 rs2 | .div _ rs1 rs2 | .and _ rs1 rs2 | .or _ rs1 rs2
  | .xor _ rs1 rs2 | .sll _ rs1 rs2 | .srl _ rs1 rs2 => [rs1, rs2]
  | .addi _ rs1 _ | .subi _ rs1 _ | .muli _ rs1 _ | .divi _ rs1 _ | .andi _ rs1 _ | .ori _ rs1 _ | .xori _ rs1 _ => [rs1]
  | .slli _ rs1 _ | .srli _ rs1 _ => [rs1]
  | .lui _ _ | .auipc _ _ => []
  | .lb _ rs1 _ | .lh _ rs1 _ | .lw _ rs1 _ => [rs1]
  | .sb rs1 rs2 _ | .sh rs1 rs2 _ => [rs1, rs2]
  | .sw rs1 rs2 _ => [rs1, rs2, rs2 + 1]
  | .beq rs1 rs2 _ | .bne rs1 rs2 _ | .blt rs1 rs2 _ | .bgt rs1 rs2 _ | .ble rs1 rs2 _ | .bge rs1 rs2 _ => [rs1, rs2]
  | .jal _ _ => []
  | .jalr _ rs1 _ => [rs1]
  | .halt => []

/-- DIV or DIVI with a zero divisor in `s` (R147, R157). -/
def dividesByZero (i : Instr) (s : State) : Bool :=
  match i with
  | .div _ _ rs2 => (s.readReg rs2).toNat == 0
  | .divi _ _ imm => imm.toNat % 256 == 0
  | _ => false

/-- The registers an instruction writes (10_state.md R31), division by zero apart. -/
def destinationsOf : Instr → List Reg
  | .add rd _ _ | .sub rd _ _ | .mul rd _ _ | .div rd _ _ | .and rd _ _ | .or rd _ _ | .xor rd _ _ | .sll rd _ _
  | .srl rd _ _ => [rd]
  | .addi rd _ _ | .subi rd _ _ | .muli rd _ _ | .divi rd _ _ | .andi rd _ _ | .ori rd _ _ | .xori rd _ _ => [rd]
  | .slli rd _ _ | .srli rd _ _ => [rd]
  | .lui rd _ | .auipc rd _ => [rd]
  | .lb rd _ _ | .lh rd _ _ => [rd]
  | .lw rd _ _ => [rd, rd + 1]
  | .sb _ _ _ | .sh _ _ _ | .sw _ _ _ => []
  | .beq _ _ _ | .bne _ _ _ | .blt _ _ _ | .bgt _ _ _ | .ble _ _ _ | .bge _ _ _ => []
  | .jal rd _ => [rd]
  | .jalr rd _ _ => [rd]
  | .halt => []

/-- The registers an instruction writes in `s` (R31): DIV and DIVI write none when the divisor is zero. -/
def writesOf (i : Instr) (s : State) : List Reg := if dividesByZero i s then [] else destinationsOf i

/-- The addresses an instruction stores to in `s` (20_memory.md R64, 42_load_store.md R190): none but for SB, SH, SW. -/
def storesTo (i : Instr) (s : State) : List Nat :=
  match i with
  | .sb rs1 _ imm => [dataAddr s.cfg (s.readReg rs1) imm 0]
  | .sh rs1 _ imm => [dataAddr s.cfg (s.readReg rs1) imm 0, dataAddr s.cfg (s.readReg rs1) imm 1]
  | .sw rs1 _ imm =>
    [dataAddr s.cfg (s.readReg rs1) imm 0, dataAddr s.cfg (s.readReg rs1) imm 1, dataAddr s.cfg (s.readReg rs1) imm 2,
     dataAddr s.cfg (s.readReg rs1) imm 3]
  | _ => []

/-- The form that PAIR_WRAP = refuse gives no meaning (42_load_store.md R191). -/
def refusedForm (i : Instr) (c : Config) : Bool :=
  match i with
  | .sw _ rs2 _ => c.pairWrap == .refuse && rs2 == 15
  | .lw rd _ _ => c.pairWrap == .refuse && rd == 15
  | _ => false

/-! ## Outcomes and the reserved state -/

/-- The loads and stores, the only instructions that reach memory (20_memory.md R61). -/
def touchesMemory : Instr → Bool
  | .lb _ _ _ | .lh _ _ _ | .lw _ _ _ | .sb _ _ _ | .sh _ _ _ | .sw _ _ _ => true
  | _ => false

/-- The branches and jumps, and HALT, whose rules name a pc of their own (30_encoding.md R121). -/
def namesPc : Instr → Bool
  | .beq _ _ _ | .bne _ _ _ | .blt _ _ _ | .bgt _ _ _ | .ble _ _ _ | .bge _ _ _ | .jal _ _ | .jalr _ _ _ | .halt => true
  | _ => false

/-- An outcome with its next state, if it has one, changed by `f`. -/
def mapNext (f : State → State) : Host.Outcome State Fault Refusal → Host.Outcome State Fault Refusal
  | .next t => .next (f t)
  | .fault r => .fault r
  | .refused r => .refused r

/-- A state with its reserved parts (R44 to R46) replaced. -/
def State.withReserved (s : State) (index : Word16) (stack : Vector Word16 16) (sp timer0 timer1 : Byte) : State :=
  { s with index := index, stack := stack, sp := sp, timer0 := timer0, timer1 := timer1 }

/-! ## Encodings -/

/-- The bits of an instruction word that are not don't-care bits (30_encoding.md R109). -/
def careMask : Format → Word32
  | .r => 0x00FFFFFF
  | .shiftImm => 0x0F1FFFFF
  | .noOperand => 0x000000FF
  | .i | .u | .s | .jImm | .jReg => 0xFFFFFFFF

/-- The operands as the decoder gives them back: a shift amount after the 5-bit mask of its field, every other operand as
it is (30_encoding.md R118, R127). -/
def maskedOperands (i : Instr) : OperandFields :=
  match i with
  | .slli rd rs1 shamt | .srli rd rs1 shamt => { rd := rd, rs1 := rs1, imm := (shamt &&& 0x1F).setWidth 20 }
  | _ => i.operands

end Sys2Proof.Machine
end

