-- ==== Sys2Proof/Certificates/Slice0/Obligations.lean ====
section
/-! DEFINITION. The statements for the provers. Each formalises rules of spec/ or, where its docstring says so, a decision
the spec marks as its own (D<n> of 92_eei_decisions.md) or a convention of the model (log entry <n>). -/

open Sys2Proof Sys2Proof.Machine

/-! ## Encoding -/

/-- Decode and encode agree, for every legal ISA table, every well-formed instruction and whatever follows it (30_encoding.md
section 5). The format of the loads is the spec's decision D9, the ignored bits D24. -/
def Obligations.DecodeInvertsEncode : Prop :=
  ∀ (t : IsaTable) (i : Instr) (rest : List Byte), IsaTable.valid t = true → i.wf = true →
    decode t (encode t i ++ rest) = .ok (i, rest)

/-- R118: the encoded word of any instruction under any legal table classifies to its row and decodes to the tuple that was
fed to the encoder, the shift amount after its 5-bit mask. -/
def Obligations.FieldTupleRoundTrip : Prop :=
  ∀ (t : IsaTable) (i : Instr), IsaTable.valid t = true →
    ∃ r ∈ t, r.mnemonic = i.mnemonic ∧
      classify t ((encodeWord t i).extractLsb' 0 8) (some ((encodeWord t i).extractLsb' 8 8)) = some r.descriptor ∧
      (decodeFields (encodeWord t i) r.descriptor).opcode = r.opcode ∧
      (decodeFields (encodeWord t i) r.descriptor).funct3 = r.funct3 ∧
      (decodeFields (encodeWord t i) r.descriptor).funct4 = r.funct4.getD 0 ∧
      (decodeFields (encodeWord t i) r.descriptor).operands = maskedOperands i

/-- The other direction: what the decoder reads is, the don't-care bits of R109 (D24) apart, exactly the word the encoder
writes, so no other bit of an instruction is ignored; and it consumes exactly the instruction's bytes. -/
def Obligations.EncodeInvertsDecode : Prop :=
  ∀ (t : IsaTable) (bs rest : List Byte) (i : Instr), IsaTable.valid t = true → decode t bs = .ok (i, rest) →
    i.len ≤ bs.length ∧ rest = bs.drop i.len ∧
      encodeWord t i = leWord (bs.take i.len) &&& careMask i.mnemonic.format

/-- R109 (the spec's decision D24): any value of the don't-care bits is accepted and changes nothing. -/
def Obligations.DontCareBitsChangeNothing : Prop :=
  ∀ (t : IsaTable) (w w' : Word32) (i : Instr), IsaTable.valid t = true → decodeWord t w = some i →
    w &&& careMask i.mnemonic.format = w' &&& careMask i.mnemonic.format →
    ∃ i', decodeWord t w' = some i' ∧ ∀ s, exec i' s = exec i s

/-- R112 for every legal table: the classifier finds exactly the table's rows, by byte0 and, for a funct4 selector, the low
nibble of byte1. -/
def Obligations.ClassifierFindsExactlyTheRows : Prop :=
  ∀ t : IsaTable, IsaTable.valid t = true →
    (∀ r ∈ t, ∀ b1 : Byte, r.funct4 = none ∨ r.funct4 = some (b1.extractLsb' 0 4) →
      classify t r.sel (some b1) = some r.descriptor) ∧
    (∀ r ∈ t, r.funct4 = none → classify t r.sel none = some r.descriptor) ∧
    (∀ b0 b1 d, classify t b0 b1 = some d → ∃ r ∈ t, d = r.descriptor ∧ r.sel = b0 ∧
      (r.funct4 = none ∨ ∃ b : Byte, b1 = some b ∧ r.funct4 = some (b.extractLsb' 0 4)))

/-- R116 and R103: every field of the decoder's record, as a number, for every format. -/
def Obligations.DecoderFieldPositions : Prop :=
  ∀ (w : Word32) (d : Descriptor),
    (decodeFields w d).opcode.toNat = w.toNat / 8 % 32 ∧ (decodeFields w d).funct3.toNat = w.toNat % 8 ∧
    (decodeFields w d).desc = d ∧
    let D := decodeFields w d
    let n := w.toNat
    match d.format with
    | .r => D.funct4.toNat = n / 2 ^ 8 % 16 ∧ D.rd.val = n / 2 ^ 12 % 16 ∧ D.rs1.val = n / 2 ^ 16 % 16 ∧
        D.rs2.val = n / 2 ^ 20 % 16 ∧ D.imm = 0 ∧ D.halt = false
    | .i => D.rd.val = n / 2 ^ 8 % 16 ∧ D.rs1.val = n / 2 ^ 12 % 16 ∧ D.imm.toNat = n / 2 ^ 16 ∧ D.rs2 = 0 ∧
        D.funct4 = 0 ∧ D.halt = false
    | .u => D.funct4.toNat = n / 2 ^ 8 % 16 ∧ D.rd.val = n / 2 ^ 12 % 16 ∧ D.imm.toNat = n / 2 ^ 16 ∧ D.rs1 = 0 ∧
        D.rs2 = 0 ∧ D.halt = false
    | .s => D.rs1.val = n / 2 ^ 8 % 16 ∧ D.rs2.val = n / 2 ^ 12 % 16 ∧ D.imm.toNat = n / 2 ^ 16 ∧ D.rd = 0 ∧
        D.funct4 = 0 ∧ D.halt = false
    | .jImm => D.rd.val = n / 2 ^ 8 % 16 ∧ D.imm.toNat = n / 2 ^ 12 ∧ D.rs1 = 0 ∧ D.rs2 = 0 ∧ D.funct4 = 0 ∧
        D.halt = false
    | .jReg => D.rd.val = n / 2 ^ 8 % 16 ∧ D.rs1.val = n / 2 ^ 12 % 16 ∧ D.imm.toNat = n / 2 ^ 16 ∧ D.rs2 = 0 ∧
        D.funct4 = 0 ∧ D.halt = false
    | .shiftImm => D.funct4.toNat = n / 2 ^ 8 % 16 ∧ D.rd.val = n / 2 ^ 12 % 16 ∧ D.imm.toNat = n / 2 ^ 16 % 256 ∧
        D.rs1.val = n / 2 ^ 24 % 16 ∧ D.rs2 = 0 ∧ D.halt = false
    | .noOperand => D.rd = 0 ∧ D.rs1 = 0 ∧ D.rs2 = 0 ∧ D.imm = 0 ∧ D.funct4 = 0 ∧ D.halt = true

/-- R127: the packed word of every format as a sum of its fields, and its bytes, least-significant first. -/
def Obligations.EncoderPacking : Prop :=
  ∀ (t : IsaTable) (i : Instr),
    (let r := t.row i.mnemonic
     let o := i.operands
     let sel := r.funct3.toNat + r.opcode.toNat * 8
     let f4 := (r.funct4.getD 0).toNat
     (encodeWord t i).toNat =
       match i.mnemonic.format with
       | .r => sel + (f4 + o.rd.val * 2 ^ 4) * 2 ^ 8 + (o.rs1.val + o.rs2.val * 2 ^ 4) * 2 ^ 16
       | .i | .jReg => sel + (o.rd.val + o.rs1.val * 2 ^ 4) * 2 ^ 8 + o.imm.toNat % 2 ^ 16 * 2 ^ 16
       | .u => sel + (f4 + o.rd.val * 2 ^ 4) * 2 ^ 8 + o.imm.toNat % 2 ^ 16 * 2 ^ 16
       | .s => sel + (o.rs1.val + o.rs2.val * 2 ^ 4) * 2 ^ 8 + o.imm.toNat % 2 ^ 16 * 2 ^ 16
       | .jImm => sel + o.rd.val * 2 ^ 8 + o.imm.toNat % 2 ^ 12 * 2 ^ 12 + o.imm.toNat / 2 ^ 12 * 2 ^ 24
       | .shiftImm => sel + (f4 + o.rd.val * 2 ^ 4) * 2 ^ 8 + o.imm.toNat % 2 ^ 5 * 2 ^ 16 + o.rs1.val * 2 ^ 24
       | .noOperand => sel) ∧
    (encode t i).length = i.len ∧
    ∀ k, (h : k < (encode t i).length) → ((encode t i)[k]).toNat = (encodeWord t i).toNat / 256 ^ k % 256

/-- The reference table (R105, the spec's decision D2) meets what every ISA table must (R104, R106, R107). -/
def Obligations.ReferenceTableLegal : Prop := IsaTable.valid referenceTable = true

/-- R108 under the reference table (D2): the bytes that select an instruction are exactly the 35 listed ones. -/
def Obligations.ReferenceSelectorsExactly : Prop :=
  ∀ b0 b1 : Byte, (classify referenceTable b0 (some b1)).isSome = true ↔
    (b0.toNat = 0x08 ∧ b1.toNat % 16 ≤ 8) ∨ (b0.toNat = 0x18 ∧ b1.toNat % 16 ≤ 1) ∨
      (b0.toNat = 0x20 ∧ b1.toNat % 16 ≤ 1) ∨ (0x10 ≤ b0.toNat ∧ b0.toNat ≤ 0x16) ∨
      (0x28 ≤ b0.toNat ∧ b0.toNat ≤ 0x2A) ∨ (0x30 ≤ b0.toNat ∧ b0.toNat ≤ 0x32) ∨
      (0x38 ≤ b0.toNat ∧ b0.toNat ≤ 0x3D) ∨ b0.toNat = 0x40 ∨ b0.toNat = 0x48 ∨ b0.toNat = 0xFF

/-- Words of 95_test_vectors.md section 2, one per format, under the reference table (D2). -/
def Obligations.DecodeOfWrittenOutWords : Prop :=
  decode referenceTable [0x08, 0x58, 0xA7] = .ok (.srl 5 7 10, []) ∧
  decode referenceTable [0x10, 0x21, 0x34, 0x12] = .ok (.addi 1 2 0x1234, []) ∧
  decode referenceTable [0x20, 0x31, 0xCD, 0xAB] = .ok (.auipc 3 0xABCD, []) ∧
  decode referenceTable [0x32, 0x21, 0x00, 0x01] = .ok (.sw 1 2 0x0100, []) ∧
  decode referenceTable [0x40, 0x5A, 0x34, 0x12] = .ok (.jal 10 0x12345, []) ∧
  decode referenceTable [0x48, 0x56, 0xFE, 0xFF] = .ok (.jalr 6 5 0xFFFE, []) ∧
  decode referenceTable [0x18, 0x31, 0xE7, 0xF1] = .ok (.srli 3 1 0xE7, []) ∧
  decode referenceTable [0xFF, 0x12, 0x34, 0x56] = .ok (.halt, [])

/-! ## Results: ALU -/

/-- R144, R145, R146: ADD, SUB and MUL. -/
def Obligations.AddSubMulResult : Prop :=
  ∀ (rd rs1 rs2 : Reg) (s : State),
    (EncodedAs (.add rd rs1 rs2) .r 3 ∧ ∃ t, exec (.add rd rs1 rs2) s = .next t ∧
      WritesReg s t rd (((s.readReg rs1).toNat + (s.readReg rs2).toNat) % 256) 3) ∧
    (EncodedAs (.sub rd rs1 rs2) .r 3 ∧ ∃ t, exec (.sub rd rs1 rs2) s = .next t ∧
      WritesReg s t rd (((s.readReg rs1).toNat + 256 - (s.readReg rs2).toNat) % 256) 3) ∧
    (EncodedAs (.mul rd rs1 rs2) .r 3 ∧ ∃ t, exec (.mul rd rs1 rs2) s = .next t ∧
      WritesReg s t rd (((s.readReg rs1).toNat * (s.readReg rs2).toNat) % 256) 3)

/-- R148, R149, R150: AND, OR and XOR. -/
def Obligations.AndOrXorResult : Prop :=
  ∀ (rd rs1 rs2 : Reg) (s : State),
    (EncodedAs (.and rd rs1 rs2) .r 3 ∧ ∃ t, exec (.and rd rs1 rs2) s = .next t ∧
      WritesReg s t rd ((s.readReg rs1).toNat &&& (s.readReg rs2).toNat) 3) ∧
    (EncodedAs (.or rd rs1 rs2) .r 3 ∧ ∃ t, exec (.or rd rs1 rs2) s = .next t ∧
      WritesReg s t rd ((s.readReg rs1).toNat ||| (s.readReg rs2).toNat) 3) ∧
    (EncodedAs (.xor rd rs1 rs2) .r 3 ∧ ∃ t, exec (.xor rd rs1 rs2) s = .next t ∧
      WritesReg s t rd ((s.readReg rs1).toNat ^^^ (s.readReg rs2).toNat) 3)

/-- R151, R152: SLL and SRL shift by the whole register, so an amount of 8 or more gives 0. The unmasked amount is the
spec's decision D11 (log entry 13). -/
def Obligations.RegisterShiftResult : Prop :=
  ∀ (rd rs1 rs2 : Reg) (s : State),
    (∃ t, exec (.sll rd rs1 rs2) s = .next t ∧
      WritesReg s t rd (((s.readReg rs1).toNat * 2 ^ (s.readReg rs2).toNat) % 256) 3) ∧
    (∃ t, exec (.srl rd rs1 rs2) s = .next t ∧
      WritesReg s t rd ((s.readReg rs1).toNat / 2 ^ (s.readReg rs2).toNat) 3)

/-- R147, R157: DIV and DIVI by a divisor that is not zero. Unsigned and truncating is the spec's decision D10 (log entry
12). -/
def Obligations.DivisionResult : Prop :=
  (∀ (rd rs1 rs2 : Reg) (s : State), (s.readReg rs2).toNat ≠ 0 →
    ∃ t, exec (.div rd rs1 rs2) s = .next t ∧
      WritesReg s t rd ((s.readReg rs1).toNat / (s.readReg rs2).toNat) 3) ∧
  (∀ (rd rs1 : Reg) (imm : Word16) (s : State), imm.toNat % 256 ≠ 0 →
    ∃ t, exec (.divi rd rs1 imm) s = .next t ∧
      WritesReg s t rd ((s.readReg rs1).toNat / (imm.toNat % 256)) 4)

/-- R147, R157, R244: division by zero is skipped, recorded and passed over: only divErrors and pc change. The record's
form is the spec's decision D20 (log entry 20). -/
def Obligations.DivisionByZeroIsRecordedAndPassed : Prop :=
  (∀ (rd rs1 rs2 : Reg) (s : State), (s.readReg rs2).toNat = 0 →
    ∃ t, exec (.div rd rs1 rs2) s = .next t ∧ t.divErrors = s.divErrors ++ [s.pc] ∧
      t.pc.toNat = (s.pc.toNat + 3) % 65536 ∧ SameRegs s t ∧ SameMemory s t ∧ t.run = s.run ∧ SameRecords s t ∧
      SameInert s t) ∧
  (∀ (rd rs1 : Reg) (imm : Word16) (s : State), imm.toNat % 256 = 0 →
    ∃ t, exec (.divi rd rs1 imm) s = .next t ∧ t.divErrors = s.divErrors ++ [s.pc] ∧
      t.pc.toNat = (s.pc.toNat + 4) % 65536 ∧ SameRegs s t ∧ SameMemory s t ∧ t.run = s.run ∧ SameRecords s t ∧
      SameInert s t)

/-- R154, R155, R156: ADDI, SUBI and MULI with the low byte of the immediate. -/
def Obligations.AddiSubiMuliResult : Prop :=
  ∀ (rd rs1 : Reg) (imm : Word16) (s : State),
    (EncodedAs (.addi rd rs1 imm) .i 4 ∧ ∃ t, exec (.addi rd rs1 imm) s = .next t ∧
      WritesReg s t rd (((s.readReg rs1).toNat + imm.toNat % 256) % 256) 4) ∧
    (EncodedAs (.subi rd rs1 imm) .i 4 ∧ ∃ t, exec (.subi rd rs1 imm) s = .next t ∧
      WritesReg s t rd (((s.readReg rs1).toNat + 256 - imm.toNat % 256) % 256) 4) ∧
    (EncodedAs (.muli rd rs1 imm) .i 4 ∧ ∃ t, exec (.muli rd rs1 imm) s = .next t ∧
      WritesReg s t rd (((s.readReg rs1).toNat * (imm.toNat % 256)) % 256) 4)

/-- R158, R159, R160: ANDI, ORI and XORI with the low byte of the immediate. -/
def Obligations.AndiOriXoriResult : Prop :=
  ∀ (rd rs1 : Reg) (imm : Word16) (s : State),
    (EncodedAs (.andi rd rs1 imm) .i 4 ∧ ∃ t, exec (.andi rd rs1 imm) s = .next t ∧
      WritesReg s t rd ((s.readReg rs1).toNat &&& (imm.toNat % 256)) 4) ∧
    (EncodedAs (.ori rd rs1 imm) .i 4 ∧ ∃ t, exec (.ori rd rs1 imm) s = .next t ∧
      WritesReg s t rd ((s.readReg rs1).toNat ||| (imm.toNat % 256)) 4) ∧
    (EncodedAs (.xori rd rs1 imm) .i 4 ∧ ∃ t, exec (.xori rd rs1 imm) s = .next t ∧
      WritesReg s t rd ((s.readReg rs1).toNat ^^^ (imm.toNat % 256)) 4)

/-- R162, R163: SLLI and SRLI shift by the low five bits of the shift-amount byte. -/
def Obligations.ShiftImmediateResult : Prop :=
  ∀ (rd rs1 : Reg) (shamt : Byte) (s : State),
    (EncodedAs (.slli rd rs1 shamt) .shiftImm 4 ∧ ∃ t, exec (.slli rd rs1 shamt) s = .next t ∧
      WritesReg s t rd (((s.readReg rs1).toNat * 2 ^ (shamt.toNat % 32)) % 256) 4) ∧
    (EncodedAs (.srli rd rs1 shamt) .shiftImm 4 ∧ ∃ t, exec (.srli rd rs1 shamt) s = .next t ∧
      WritesReg s t rd ((s.readReg rs1).toNat / 2 ^ (shamt.toNat % 32)) 4)

/-! ## Results: upper immediates -/

/-- R180: LUI writes the upper byte of the immediate. -/
def Obligations.LuiResult : Prop :=
  ∀ (rd : Reg) (imm : Word16) (s : State),
    EncodedAs (.lui rd imm) .u 4 ∧ ∃ t, exec (.lui rd imm) s = .next t ∧ WritesReg s t rd (imm.toNat / 256) 4

/-- R181: AUIPC, by the source's formula on exact integers, and by the equal sum of bytes. -/
def Obligations.AuipcResult : Prop :=
  ∀ (rd : Reg) (imm : Word16) (s : State),
    EncodedAs (.auipc rd imm) .u 4 ∧
    ∃ t, exec (.auipc rd imm) s = .next t ∧
      WritesReg s t rd (((s.pc.toNat + 4) % 65536 + imm.toNat * 256) / 256 % 256) 4 ∧
      (t.readReg rd).toNat = ((s.pc.toNat + 4) % 65536 / 256 + imm.toNat % 256) % 256

/-! ## Results: loads and stores -/

/-- R64, R65, R66, R68: the data address of every byte of an access is the exact sum with the mask applied last, each byte
masked on its own (D15, log entry 15). Where the size and the mask agree it is inside the array; for a size of 2^k bytes it
is the sum modulo 2^k, and up to 2^16 an offset read as signed (log entry 31) gives the same address. The spec's own pair
(D3, log entry 11) is k = 12. -/
def Obligations.DataAddressDecoder : Prop :=
  ∀ (c : Config) (base : Byte) (imm : Word16) (i : Nat),
    dataAddr c base imm i = (base.toNat + imm.toNat + i) &&& c.addrMask ∧
    (c.memSize = c.addrMask + 1 → dataAddr c base imm i < c.memSize) ∧
    (∀ k, c.memoryBits k → dataAddr c base imm i = (base.toNat + imm.toNat + i) % 2 ^ k) ∧
    (∀ k, k ≤ 16 → c.memoryBits k →
      (dataAddr c base imm i : Int) = ((base.toNat : Int) + twos 16 imm.toNat + i) % 2 ^ k)

/-- R193: SB stores the register's byte at one address and nowhere else. The premise is the canonical form of memory,
which every step keeps. -/
def Obligations.SbStoresOneByte : Prop :=
  ∀ (rs1 rs2 : Reg) (imm : Word16) (s : State), s.mem.wf = true →
    EncodedAs (.sb rs1 rs2 imm) .s 4 ∧
    ∃ t, exec (.sb rs1 rs2 imm) s = .next t ∧
      dataAddr s.cfg (s.readReg rs1) imm 0 = ((s.readReg rs1).toNat + imm.toNat) &&& s.cfg.addrMask ∧
      StoresBytes s t rs1 imm [s.readReg rs2]

/-- R194: SH stores the register's byte and a zero byte. The zero fill is the spec's decision D12, the masking of each
byte D15 (log entries 14 and 15). The bytes are distinct addresses in a memory of 2^k bytes with k at least 2 (R77); the
spec's own size (D3, log entry 11) is k = 12. -/
def Obligations.ShStoresByteAndZero : Prop :=
  ∀ (rs1 rs2 : Reg) (imm : Word16) (k : Nat) (s : State), s.mem.wf = true → s.cfg.memoryBits k → 2 ≤ k →
    ∃ t, exec (.sh rs1 rs2 imm) s = .next t ∧ StoresBytes s t rs1 imm [s.readReg rs2, 0x00]

/-- R195, R191: SW stores the register pair and two zero bytes, for every form that PAIR_WRAP gives a meaning. The zero
fill is the spec's decision D12, the masking of each byte D15, the pair of r15 D14 (log entries 14, 15 and 10). The bytes are
distinct addresses in a memory of 2^k bytes with k at least 2 (R77); the spec's own size (D3, log entry 11) is k = 12. -/
def Obligations.SwStoresPairAndZeros : Prop :=
  ∀ (rs1 rs2 : Reg) (imm : Word16) (k : Nat) (s : State), s.mem.wf = true → s.cfg.memoryBits k → 2 ≤ k →
    (s.cfg.pairWrap = .wrap ∨ rs2 ≠ 15) →
    ∃ t, exec (.sw rs1 rs2 imm) s = .next t ∧
      StoresBytes s t rs1 imm [s.readReg rs2, s.readReg (rs2 + 1), 0x00, 0x00]

/-- R196, R197: LB and LH load the byte at the first address into rd, LH dropping the second. The format is the spec's
decision D9, the dropped byte D13 (log entries 23 and 14). -/
def Obligations.LbLhResult : Prop :=
  ∀ (rd rs1 : Reg) (imm : Word16) (s : State),
    (∃ t, exec (.lb rd rs1 imm) s = .next t ∧
      WritesReg s t rd (s.mem.rd8 (dataAddr s.cfg (s.readReg rs1) imm 0)).toNat 4) ∧
    (∃ t, exec (.lh rd rs1 imm) s = .next t ∧
      WritesReg s t rd (s.mem.rd8 (dataAddr s.cfg (s.readReg rs1) imm 0)).toNat 4)

/-- R198, R191: LW loads two bytes into rd and its pair, for every form that PAIR_WRAP gives a meaning; the address is
formed from the old registers. The dropped bytes are the spec's decision D13, the masking of each byte D15, the pair of r15
D14 (log entries 14, 15 and 10). -/
def Obligations.LwResult : Prop :=
  ∀ (rd rs1 : Reg) (imm : Word16) (s : State), (s.cfg.pairWrap = .wrap ∨ rd ≠ 15) →
    ∃ t, exec (.lw rd rs1 imm) s = .next t ∧
      t.readReg rd = s.mem.rd8 (dataAddr s.cfg (s.readReg rs1) imm 0) ∧
      t.readReg (rd + 1) = s.mem.rd8 (dataAddr s.cfg (s.readReg rs1) imm 1) ∧
      (∀ r, r ≠ rd → r ≠ rd + 1 → t.readReg r = s.readReg r) ∧
      t.pc.toNat = (s.pc.toNat + 4) % 65536 ∧ SameMemory s t ∧ SameRest s t

/-- R191, R249 (the spec's decision D14, log entry 10): under PAIR_WRAP = refuse, SW of r15 and LW to r15 end the run as
Refused and change nothing else. -/
def Obligations.RefusedPairForms : Prop :=
  ∀ (r rs1 : Reg) (imm : Word16) (s : State), s.cfg.pairWrap = .refuse → r = 15 →
    (∃ t, exec (.sw rs1 r imm) s = .next t ∧ EndsRun s t .refused) ∧
    (∃ t, exec (.lw r rs1 imm) s = .next t ∧ EndsRun s t .refused)

/-- SW then LW at the same address, offset and base gives back both registers (90_conflicts.md C9: D12 and D13; log entry
14), whatever the pair register of the load (D14, log entry 10), each byte masked on its own (D15, log entry 15), in a
memory of 2^k bytes with k at least 2 (the spec's own size is k = 12, log entry 11). -/
def Obligations.SwThenLwRestoresThePair : Prop :=
  ∀ (rs1 rs2 rd : Reg) (imm : Word16) (k : Nat) (s : State), s.mem.wf = true → s.cfg.memoryBits k → 2 ≤ k →
    s.cfg.pairWrap = .wrap →
    ∃ t u, exec (.sw rs1 rs2 imm) s = .next t ∧ exec (.lw rd rs1 imm) t = .next u ∧
      u.readReg rd = s.readReg rs2 ∧ u.readReg (rd + 1) = s.readReg (rs2 + 1)

/-- R72: LB at offset n (0 to 3) after SW gives byte n of the stored 32-bit value, whose bytes are those of D12 (log entry
14), each masked on its own (D15, log entry 15) and the pair of r15 by D14 (log entry 10), in a memory of 2^k bytes with k
from 2 to 16 (the spec's own size is k = 12, log entry 11). -/
def Obligations.SwThenLbReadsEachByte : Prop :=
  ∀ (rs1 rs2 rd : Reg) (imm : Word16) (k n : Nat) (s : State), s.mem.wf = true → s.cfg.memoryBits k → 2 ≤ k → k ≤ 16 →
    s.cfg.pairWrap = .wrap → n < 4 →
    ∃ t u, exec (.sw rs1 rs2 imm) s = .next t ∧ exec (.lb rd rs1 (imm + BitVec.ofNat 16 n)) t = .next u ∧
      (u.readReg rd).toNat =
        ((s.readReg (rs2 + 1)).toNat * 256 + (s.readReg rs2).toNat) / 256 ^ n % 256

/-! ## Results: control transfer and HALT -/

/-- R210 to R217: the six branches compare two registers as signed 8-bit and go to next_pc plus the signed offset, or to
next_pc; nothing but pc changes. A target is taken modulo 2^16 by the spec's decision D31 (log entry 22), and signed means
two's complement (log entry 31). -/
def Obligations.BranchResult : Prop :=
  ∀ (rs1 rs2 : Reg) (imm : Word16) (s : State),
    let a := twos 8 (s.readReg rs1).toNat
    let b := twos 8 (s.readReg rs2).toNat
    let goes (i : Instr) (taken : Prop) : Prop :=
      EncodedAs i .s 4 ∧ ∃ t, exec i s = .next t ∧
        (taken → MovesPc s t (pcOf ((s.pc.toNat : Int) + 4 + twos 16 imm.toNat))) ∧
        (¬ taken → MovesPc s t ((s.pc.toNat + 4) % 65536))
    goes (.beq rs1 rs2 imm) (a = b) ∧ goes (.bne rs1 rs2 imm) (a ≠ b) ∧ goes (.blt rs1 rs2 imm) (a < b) ∧
      goes (.bgt rs1 rs2 imm) (a > b) ∧ goes (.ble rs1 rs2 imm) (a ≤ b) ∧ goes (.bge rs1 rs2 imm) (a ≥ b)

/-- R220: JAL writes the high byte of the return address and jumps to next_pc plus the signed 20-bit offset, modulo 2^16 by
the spec's decision D31 (log entry 22); signed means two's complement (log entry 31). -/
def Obligations.JalResult : Prop :=
  ∀ (rd : Reg) (imm : BitVec 20) (s : State),
    EncodedAs (.jal rd imm) .jImm 4 ∧
    ∃ t, exec (.jal rd imm) s = .next t ∧
      WritesRegJumps s t rd ((s.pc.toNat + 4) % 65536 / 256) (pcOf ((s.pc.toNat : Int) + 4 + twos 20 imm.toNat))

/-- R222: JALR writes the high byte of the return address to rd and THEN reads rs1 (the spec's decision D16, log entry 16);
the sum is taken modulo 2^16 (the spec's decision D31, log entry 22), its offset read as two's complement (log entry 31), and
the target's bit 0 is cleared. -/
def Obligations.JalrResult : Prop :=
  ∀ (rd rs1 : Reg) (imm : Word16) (s : State),
    ∃ t, exec (.jalr rd rs1 imm) s = .next t ∧
      WritesRegJumps s t rd ((s.pc.toNat + 4) % 65536 / 256)
        (pcOf (((if rs1 = rd then (s.pc.toNat + 4) % 65536 / 256 else (s.readReg rs1).toNat : Nat) : Int) +
          twos 16 imm.toNat) / 2 * 2)

/-- R230: HALT ends the run; no register, memory or pc effect (pc by the spec's decision D17, log entry 17). -/
def Obligations.HaltResult : Prop :=
  ∀ s : State, ∃ t, exec .halt s = .next t ∧ EndsRun s t .halted

/-! ## What an instruction touches -/

/-- R31, the whole table: an instruction changes no register but those the table says it writes (DIV and DIVI none when
the divisor is zero); what it does depends on no register but those the table says it reads; and what it writes replaces
the old value. -/
def Obligations.RegisterReadWriteTable : Prop :=
  (∀ (i : Instr) (s t : State), exec i s = .next t → ∀ r, r ∉ writesOf i s → t.readReg r = s.readReg r) ∧
  (∀ (i : Instr) (s s' : State) (r : Reg), AgreeExcept r s s' → r ∉ readsOf i →
    ∃ t t', exec i s = .next t ∧ exec i s' = .next t' ∧ AgreeExcept r t t' ∧
      (r ∈ writesOf i s → refusedForm i s.cfg = false → t'.readReg r = t.readReg r))

/-- R61: no instruction but the six loads and stores reads or writes memory, and a store changes no byte but those it stores
to, each at an address masked on its own (the spec's decision D15, log entry 15). That code and data share the one memory is
the spec's decision D6 (log entry 21). -/
def Obligations.OnlyLoadsAndStoresTouchMemory : Prop :=
  (∀ (i : Instr) (s t : State), exec i s = .next t → ∀ a, a ∉ storesTo i s → t.mem.rd8 a = s.mem.rd8 a) ∧
  (∀ (i : Instr) (s : State) (m : Memory), touchesMemory i = false →
    exec i (s.setMem m) = mapNext (fun t => t.setMem m) (exec i s))

/-- R43, R244 (the record's form by D20, log entry 20): the division-error record grows by the pc of a DIV or DIVI with a
zero divisor, and no other instruction changes it. -/
def Obligations.OnlyDivisionByZeroIsRecorded : Prop :=
  ∀ (i : Instr) (s t : State), exec i s = .next t →
    t.divErrors = if dividesByZero i s then s.divErrors ++ [s.pc] else s.divErrors

/-- R121: an instruction whose rule names no pc ends at next_pc. The forms refused under PAIR_WRAP = refuse are apart (D14,
log entry 10). -/
def Obligations.PlainInstructionsGoToNextPc : Prop :=
  ∀ (i : Instr) (s t : State), namesPc i = false → refusedForm i s.cfg = false → exec i s = .next t →
    t.pc.toNat = (s.pc.toNat + i.len) % 65536 ∧ t.run = s.run

/-! ## The step -/

/-- A step runs the decoded instruction: when the word at pc decodes to an instruction whose bytes are all in the program
region, the step records the fetch, executes it and counts the completed step (R120, R122). What it records in lastPC and
lastWord is the spec's decision D18 (log entry 18), what it counts D21 (log entry 2), that every byte is checked D5, and
that code is fetched from the one memory D6 (log entries 19 and 21). -/
def Obligations.StepRunsTheDecodedInstruction : Prop :=
  ∀ (s : State) (i : Instr), s.ready →
    decodeWord s.cfg.isa (leWord (s.mem.bytesFrom s.pc.toNat 4)) = some i →
    (∀ k, k < i.len → inRegion s.cfg (s.pc.toNat + k) = true) →
    step s = mapNext State.countStep (exec i (s.recordFetch (leWord (s.mem.bytesFrom s.pc.toNat i.len))))

/-- Which outcome a step has: a next state exactly from Running with a size and a mask that agree and a ROM that fits; none
from a terminal state (R247: the spec's decision D27, log entry 7), none when MEM_SIZE is not ADDR_MASK + 1 (a pair the spec
does not define: D3, log entry 11), none when the ROM does not fit (R62: D30, log entry 9). -/
def Obligations.StepOutcomeByState : Prop :=
  ∀ s : State,
    (s.run ≠ .running → step s = .fault (.stopped s.run)) ∧
    (s.run = .running → s.cfg.memSize ≠ s.cfg.addrMask + 1 → step s = .refused .memoryPairUndefined) ∧
    (s.run = .running → s.cfg.memSize = s.cfg.addrMask + 1 →
      s.cfg.progBase.toNat + s.cfg.romLen > s.cfg.memSize → step s = .refused .romDoesNotFit) ∧
    (s.run = .running → s.cfg.memSize = s.cfg.addrMask + 1 →
      s.cfg.progBase.toNat + s.cfg.romLen ≤ s.cfg.memSize → ∃ t, step s = .next t)

/-- R248, R250 item 1: at the ceiling the run ends as CeilingReached and nothing else changes, before any fetch. What
counts as a step is the spec's decision D21 (log entry 2). -/
def Obligations.CeilingEndsTheRun : Prop :=
  ∀ s : State, s.run = .running → s.cfg.memoryDefined = true → s.cfg.romFits = true → s.cfg.maxSteps ≤ s.steps →
    ∃ t, step s = .next t ∧ EndsRun s t .ceilingReached

/-- R241: UnknownInstruction is raised when byte0 is no row's selector, or is a funct4 selector with no row for byte1's low
nibble, before any further byte is fetched; and no instruction raises it. What the error leaves is R240 and R243: the kept pc
and the diagnostic registers by the spec's decision D18, the step not counted by D21, the order of the checks by D19 (log
entries 18, 2 and 19). -/
def Obligations.UnknownInstructionIsRaised : Prop :=
  (∀ s : State, s.ready → inRegion s.cfg s.pc.toNat = true →
    (∀ r ∈ s.cfg.isa, r.sel ≠ s.mem.rd8 s.pc.toNat) →
    ∃ t, step s = .next t ∧ EndsFaulted s t .unknownInstruction (s.mem.rd8 s.pc.toNat).toNat) ∧
  (∀ s : State, s.ready → inRegion s.cfg s.pc.toNat = true → inRegion s.cfg (s.pc.toNat + 1) = true →
    (∃ r ∈ s.cfg.isa, r.funct4.isSome = true ∧ r.sel = s.mem.rd8 s.pc.toNat) →
    (∀ r ∈ s.cfg.isa, r.sel = s.mem.rd8 s.pc.toNat →
      r.funct4 ≠ some ((s.mem.rd8 (s.pc.toNat + 1)).extractLsb' 0 4)) →
    ∃ t, step s = .next t ∧ EndsFaulted s t .unknownInstruction
      ((s.mem.rd8 s.pc.toNat).toNat + 256 * (s.mem.rd8 (s.pc.toNat + 1)).toNat)) ∧
  (∀ (i : Instr) (s t : State) (kind : ErrorKind), exec i s = .next t → t.run = .faulted kind → s.run = .faulted kind)

/-- R107: no legal table gives an instruction the selector 0x00, and a fetched byte0 of 0x00 raises UnknownInstruction. What
the error leaves is R240 and R243: the kept pc and the diagnostic registers by the spec's decision D18, the step not counted
by D21, the order of the checks by D19 (log entries 18, 2 and 19). -/
def Obligations.ZeroSelectorIsReserved : Prop :=
  (∀ t : IsaTable, IsaTable.valid t = true → ∀ r ∈ t, ¬ (r.opcode = 0 ∧ r.funct3 = 0)) ∧
  (∀ s : State, s.ready → IsaTable.valid s.cfg.isa = true → inRegion s.cfg s.pc.toNat = true →
    s.mem.rd8 s.pc.toNat = 0x00 → ∃ t, step s = .next t ∧ EndsFaulted s t .unknownInstruction 0)

/-- R242, R250 items 2, 3 and 5, R120: which byte outside the program region is reported, and what lastWord then holds.
That every fetched byte is checked, and in this order, are the spec's decisions D5 and D19 (log entry 19); what lastPC and
lastWord hold and that pc is kept is D18 with 90_conflicts.md C10 (log entry 18), that the step is not counted D21 (log entry
2); the bad address as an exact integer inside the kind is the model's form (log entry 8). -/
def Obligations.PcOutOfBoundsOrder : Prop :=
  ∀ s : State, s.ready →
    let p := s.pc.toNat
    let b0 := s.mem.rd8 p
    let b1 := s.mem.rd8 (p + 1)
    (inRegion s.cfg p = false → ∃ t, step s = .next t ∧ EndsFaulted s t (.pcOutOfBounds p) 0) ∧
    (inRegion s.cfg p = true → isFunct4Selector s.cfg.isa b0 = true → inRegion s.cfg (p + 1) = false →
      ∃ t, step s = .next t ∧ EndsFaulted s t (.pcOutOfBounds (p + 1)) b0.toNat) ∧
    (∀ d k, (isFunct4Selector s.cfg.isa b0 = true → 2 ≤ k) → 1 ≤ k → k < d.lenBytes →
      (∀ j, j < k → inRegion s.cfg (p + j) = true) → inRegion s.cfg (p + k) = false →
      classify s.cfg.isa b0 (some b1) = some d →
      ∃ t, step s = .next t ∧ EndsFaulted s t (.pcOutOfBounds (p + k))
        (if isFunct4Selector s.cfg.isa b0 then b0.toNat + 256 * b1.toNat else b0.toNat))

/-- R246: a fatal fault withholds the step's effect: registers, memory, pc and every other piece of state are exactly as the
previous step left them, apart from run, lastPC and lastWord (the kept pc is also the spec's decision D18, log entry 18).
Among that state is the step count: that a fatal step is not counted is the spec's decision D21 (log entry 2). -/
def Obligations.FatalFaultWithholdsTheStep : Prop :=
  ∀ (s t : State) (kind : ErrorKind), step s = .next t → t.run = .faulted kind →
    t = { s with run := .faulted kind, lastPC := t.lastPC, lastWord := t.lastWord }

/-- R245: StackOverflow and StackUnderflow are never raised, and no instruction pushes or pops: the return-address stack and
its pointer keep their values; nor does DivisionByZero ever end a run (R244). -/
def Obligations.ReservedErrorsAreNeverRaised : Prop :=
  ∀ s t : State, step s = .next t →
    t.run ≠ .faulted .stackOverflow ∧ t.run ≠ .faulted .stackUnderflow ∧ t.run ≠ .faulted .divisionByZero ∧
      t.stack = s.stack ∧ t.sp = s.sp

/-- R42, R43, R247: a step adds one to the step count when it completes, as a normal step or as HALT, and nothing when it
ends in a fatal error, a refusal or the ceiling; it never drops a recorded division error; and unless the ceiling ended the
run it leaves the pc it fetched at in lastPC. The counting is the spec's decision D21, the diagnostics D18 (log entries 2
and 18). -/
def Obligations.StepBookkeeping : Prop :=
  ∀ s t : State, step s = .next t →
    (t.steps = if t.run = .running ∨ t.run = .halted then s.steps + 1 else s.steps) ∧
    (∃ l, t.divErrors = s.divErrors ++ l ∧ l.length ≤ 1) ∧
    (t.run ≠ .ceilingReached → t.lastPC = s.pc)

/-- R44, R45, R46, R232, R256: the reserved state is neither read nor written by any step, and no step changes the
parameters, which it reads (the model's own field, log entry 1). The entry width of the stack is the spec's decision D8 (log
entry 24). -/
def Obligations.ReservedStateIsInert : Prop :=
  (∀ (s : State) (index : Word16) (stack : Vector Word16 16) (sp timer0 timer1 : Byte),
    step (s.withReserved index stack sp timer0 timer1) =
      mapNext (fun t => t.withReserved index stack sp timer0 timer1) (step s)) ∧
  (∀ s t : State, step s = .next t → SameInert s t)

/-! ## Invariants and runs -/

/-- Every step from a state that meets the invariant gives a state that meets it. The invariant's parts rest on R60, R40,
R245, R248, R243, R230 and on the spec's decisions D3, D17, D18, D20 and D21 (log entries 11, 17, 18, 20 and 2). -/
def Obligations.StepKeepsTheInvariant : Prop :=
  ∀ s t : State, s.Inv → step s = .next t → t.Inv

/-- The invariant holds right after reset (with no ROM loaded, log entry 5). -/
def Obligations.ResetMeetsTheInvariant : Prop := State.reset.Inv

/-- Two memories in canonical form that read the same at every address are equal data (the model's form of M, log entry
11). -/
def Obligations.CanonicalMemoriesAreDetermined : Prop :=
  ∀ m n : Memory, m.wf = true → n.wf = true → (∀ a, m.rd8 a = n.rd8 a) → m = n

/-- R62, R270, R273: loading an image that fits, with a size and a mask that agree, gives the reset state with the image at
PROG_BASE and every other byte 0x00, and it meets the invariant; an image that does not fit is refused, and so is a size that
is not ADDR_MASK + 1. The values are the spec's decisions D4, D6, D7 and D30 (log entries 4, 5, 6 and 9); the last refusal is
the model's answer to a pair that D3 does not define (log entry 11). -/
def Obligations.BootLoadsTheImage : Prop :=
  ∀ (c : Config) (rom : List Byte), IsaTable.valid c.isa = true → 0 < c.maxSteps →
    (c.memSize = c.addrMask + 1 → c.progBase.toNat + rom.length ≤ c.memSize →
      ∃ t, boot c rom = .next t ∧ t.Inv ∧
        (∀ k, (h : k < rom.length) → t.mem.rd8 (c.progBase.toNat + k) = rom[k]) ∧
        (∀ a, a < c.progBase.toNat ∨ c.progBase.toNat + rom.length ≤ a → t.mem.rd8 a = 0x00) ∧
        t.pc = c.progBase ∧ t.run = .running ∧ t.steps = 0 ∧ t.divErrors = [] ∧ t.lastPC = 0 ∧ t.lastWord = 0 ∧
        (∀ r, t.readReg r = 0) ∧ t.index = 0 ∧ (∀ k : Fin 16, t.stack[k] = 0) ∧ t.sp = 0 ∧ t.timer0 = 0 ∧
        t.timer1 = 0 ∧ t.cfg = { c with romLen := rom.length }) ∧
    (c.memSize = c.addrMask + 1 → c.progBase.toNat + rom.length > c.memSize → boot c rom = .refused .romDoesNotFit) ∧
    (c.memSize ≠ c.addrMask + 1 → boot c rom = .refused .memoryPairUndefined)

/-- R279: under PAIR_WRAP = wrap, from every Running state that meets the invariant, the run ends in Halted, Faulted or
CeilingReached within one step more than the ceiling still allows. The ceiling's counting is the spec's decision D21. -/
def Obligations.EveryRunEndsWithinTheCeiling : Prop :=
  ∀ s : State, s.Inv → s.run = .running → s.cfg.pairWrap = .wrap →
    ∃ (k : Nat) (t : State), k ≤ s.cfg.maxSteps - s.steps + 1 ∧ Host.Core.run Sys2Proof.core k s = .next t ∧
      (t.run = .halted ∨ (∃ kind, t.run = .faulted kind) ∨ t.run = .ceilingReached)
end

