-- ==== Sys2Proof/Laws/Memory.lean ====
section
/-! SUPPORT. The laws of memory: what a byte reads as after a write, and that every operation keeps the
canonical form and stays inside the array. -/

namespace Sys2Proof.Machine

/-! ## The canonical form -/

theorem Memory.wfFrom_cons {lo k : Nat} {v : Byte} {m : Memory} :
    Memory.wfFrom lo ((k, v) :: m) = true ↔
      lo ≤ k ∧ v ≠ resetByte ∧ Memory.wfFrom (k + 1) m = true := by
  simp [Memory.wfFrom, and_assoc]

theorem Memory.wfFrom_mono {lo lo' : Nat} {m : Memory} (h : Memory.wfFrom lo m = true) (hl : lo' ≤ lo) :
    Memory.wfFrom lo' m = true := by
  cases m with
  | nil => rfl
  | cons c m =>
    obtain ⟨k, v⟩ := c
    rw [Memory.wfFrom_cons] at h ⊢
    exact ⟨by omega, h.2⟩

/-- Below its first address a canonical memory reads as an unlisted address does. -/
theorem Memory.rd8_below {lo a : Nat} {m : Memory} (h : Memory.wfFrom lo m = true) (ha : a < lo) :
    m.rd8 a = resetByte := by
  induction m generalizing lo with
  | nil => rfl
  | cons c m ih =>
    obtain ⟨k, v⟩ := c
    rw [Memory.wfFrom_cons] at h
    have : k ≠ a := by omega
    simp only [Memory.rd8, this, if_false]
    exact ih h.2.2 (by omega)

theorem Memory.inside_iff {m : Memory} {size : Nat} : m.inside size = true ↔ ∀ c ∈ m, c.1 < size := by
  simp [Memory.inside]

/-- At and above the array's size nothing is listed. -/
theorem Memory.rd8_above {m : Memory} {size a : Nat} (h : m.inside size = true) (ha : size ≤ a) :
    m.rd8 a = resetByte := by
  rw [Memory.inside_iff] at h
  induction m with
  | nil => rfl
  | cons c m ih =>
    obtain ⟨k, v⟩ := c
    have hk : k < size := h (k, v) List.mem_cons_self
    have : k ≠ a := by omega
    simp only [Memory.rd8, this, if_false]
    exact ih fun c hc => h c (List.mem_cons_of_mem _ hc)

/-! ## One byte -/

/-- A write leaves every other address alone, whatever form memory is in. -/
theorem Memory.rd8_wr8_other {a b : Nat} (m : Memory) (v : Byte) (h : b ≠ a) : (m.wr8 a v).rd8 b = m.rd8 b := by
  induction m with
  | nil =>
    simp only [Memory.wr8]
    split
    · rfl
    · simp [Memory.rd8, h.symm]
  | cons c m ih =>
    obtain ⟨k, w⟩ := c
    simp only [Memory.wr8]
    split
    · split
      · rfl
      · simp [Memory.rd8, h.symm]
    · split
      · rename_i hk
        have : k ≠ b := by omega
        split
        · simp [Memory.rd8, this]
        · simp [Memory.rd8, this, h.symm]
      · simp only [Memory.rd8, ih]

theorem Memory.rd8_wr8_same_from {lo a : Nat} {m : Memory} (v : Byte) (h : Memory.wfFrom lo m = true) :
    (m.wr8 a v).rd8 a = v := by
  induction m generalizing lo with
  | nil =>
    simp only [Memory.wr8]
    split
    · simp_all [Memory.rd8]
    · simp [Memory.rd8]
  | cons c m ih =>
    obtain ⟨k, w⟩ := c
    rw [Memory.wfFrom_cons] at h
    simp only [Memory.wr8]
    split
    · split
      · rename_i hk hv
        have : k ≠ a := by omega
        simp only [Memory.rd8, this, if_false]
        rw [Memory.rd8_below h.2.2 (by omega), hv]
      · simp [Memory.rd8]
    · split
      · rename_i hk
        split
        · rename_i hv
          rw [Memory.rd8_below h.2.2 (by omega), hv]
        · simp [Memory.rd8]
      · rename_i hk
        have : k ≠ a := by omega
        simp only [Memory.rd8, this, if_false]
        exact ih h.2.2

/-- A read after a write to the same address gives the value written. -/
theorem Memory.rd8_wr8_same {m : Memory} (h : m.wf = true) (a : Nat) (v : Byte) : (m.wr8 a v).rd8 a = v :=
  Memory.rd8_wr8_same_from v h

/-- What every address reads as after a write. -/
theorem Memory.rd8_wr8 {m : Memory} (h : m.wf = true) (a b : Nat) (v : Byte) :
    (m.wr8 a v).rd8 b = if b = a then v else m.rd8 b := by
  split
  · subst b; exact Memory.rd8_wr8_same h a v
  · exact Memory.rd8_wr8_other m v ‹_›

theorem Memory.wr8_wfFrom {lo a : Nat} {m : Memory} (v : Byte) (h : Memory.wfFrom lo m = true) (hlo : lo ≤ a) :
    Memory.wfFrom lo (m.wr8 a v) = true := by
  induction m generalizing lo with
  | nil =>
    simp only [Memory.wr8]
    split
    · rfl
    · rw [Memory.wfFrom_cons]; exact ⟨hlo, ‹_›, rfl⟩
  | cons c m ih =>
    obtain ⟨k, w⟩ := c
    have hc := h
    rw [Memory.wfFrom_cons] at h
    simp only [Memory.wr8]
    split
    · split
      · exact hc
      · rw [Memory.wfFrom_cons, Memory.wfFrom_cons]
        exact ⟨hlo, ‹_›, by omega, h.2⟩
    · split
      · split
        · exact Memory.wfFrom_mono h.2.2 (by omega)
        · rw [Memory.wfFrom_cons]
          subst a
          exact ⟨hlo, ‹_›, h.2.2⟩
      · rw [Memory.wfFrom_cons]
        exact ⟨h.1, h.2.1, ih h.2.2 (by omega)⟩

/-- A write keeps the canonical form. -/
theorem Memory.wr8_wf {m : Memory} (h : m.wf = true) (a : Nat) (v : Byte) : (m.wr8 a v).wf = true :=
  Memory.wr8_wfFrom v h (Nat.zero_le a)

/-- A write lists no address but its own and those listed before. -/
theorem Memory.mem_wr8 {m : Memory} {a : Nat} {v : Byte} {c : Host.Cell} (h : c ∈ m.wr8 a v) : c.1 = a ∨ c ∈ m := by
  induction m with
  | nil =>
    simp only [Memory.wr8] at h
    split at h
    · cases h
    · exact .inl (by rw [List.mem_singleton.mp h])
  | cons d m ih =>
    obtain ⟨k, w⟩ := d
    simp only [Memory.wr8] at h
    split at h
    · split at h
      · exact .inr h
      · rcases List.mem_cons.mp h with rfl | h
        · exact .inl rfl
        · exact .inr h
    · split at h
      · split at h
        · exact .inr (List.mem_cons_of_mem _ h)
        · rcases List.mem_cons.mp h with rfl | h
          · exact .inl rfl
          · exact .inr (List.mem_cons_of_mem _ h)
      · rcases List.mem_cons.mp h with rfl | h
        · exact .inr List.mem_cons_self
        · exact (ih h).imp_right (List.mem_cons_of_mem _)

/-- A write to an address of the array keeps every listed address in the array. -/
theorem Memory.wr8_inside {m : Memory} {size a : Nat} (h : m.inside size = true) (ha : a < size) (v : Byte) :
    (m.wr8 a v).inside size = true := by
  rw [Memory.inside_iff] at h ⊢
  intro c hc
  rcases Memory.mem_wr8 hc with rfl | hc
  · exact ha
  · exact h c hc

/-! ## Data accesses -/

theorem memoryDefined_iff (c : Config) : c.memoryDefined = true ↔ c.memSize = c.addrMask + 1 := by
  simp [Config.memoryDefined]

theorem memoryDefined_of_memoryBits {c : Config} {k : Nat} (h : c.memoryBits k) : c.memoryDefined = true :=
  (memoryDefined_iff c).mpr h.2.symm

/-- The masked address of a data byte, as a remainder, where the size is a power of two (R66). -/
theorem dataAddr_eq_mod {c : Config} {k : Nat} (h : c.memoryBits k) (base : Byte) (imm : Word16) (i : Nat) :
    dataAddr c base imm i = (base.toNat + imm.toNat + i) % 2 ^ k := by
  have hm : c.addrMask = 2 ^ k - 1 := by have := h.1; have := h.2; omega
  rw [dataAddr, hm]
  exact Nat.and_two_pow_sub_one_eq_mod _ k

/-- A data access is never out of bounds (R68). -/
theorem dataAddr_lt {c : Config} (h : c.memoryDefined = true) (base : Byte) (imm : Word16) (i : Nat) :
    dataAddr c base imm i < c.memSize := by
  have : dataAddr c base imm i ≤ c.addrMask := Nat.and_le_right
  have := (memoryDefined_iff c).mp h
  omega

/-- The bytes of one access have different addresses (R77), in a memory of four bytes or more. -/
theorem dataAddr_ne {c : Config} {k : Nat} (hc : c.memoryBits k) (hk : 2 ≤ k) (base : Byte) (imm : Word16) {i j : Nat}
    (h : i ≠ j) (hi : i < 4) (hj : j < 4) : dataAddr c base imm i ≠ dataAddr c base imm j := by
  rw [dataAddr_eq_mod hc, dataAddr_eq_mod hc]
  intro he
  have h4 : (4 : Nat) ∣ 2 ^ k := Nat.pow_dvd_pow 2 hk
  have := congrArg (· % 4) he
  simp only [Nat.mod_mod_of_dvd _ h4] at this
  omega

theorem Memory.foldl_wr8_wf (f : Nat → Nat) (g : Nat → Byte) (l : List Nat) (m : Memory)
    (h : m.wf = true) : (l.foldl (fun m i => m.wr8 (f i) (g i)) m).wf = true := by
  induction l generalizing m with
  | nil => exact h
  | cons i l ih => exact ih _ (Memory.wr8_wf h (f i) _)

theorem Memory.foldl_wr8_inside (f : Nat → Nat) (g : Nat → Byte) {size : Nat} (hf : ∀ i, f i < size) (l : List Nat)
    (m : Memory) (h : m.inside size = true) : (l.foldl (fun m i => m.wr8 (f i) (g i)) m).inside size = true := by
  induction l generalizing m with
  | nil => exact h
  | cons i l ih => exact ih _ (Memory.wr8_inside h (hf i) _)

/-- `MemWrite` keeps the canonical form. -/
theorem Memory.writeData_wf {m : Memory} (h : m.wf = true) (c : Config) (base : Byte) (imm : Word16) (n : Nat)
    (v : Word32) : (m.writeData c base imm n v).wf = true :=
  Memory.foldl_wr8_wf (dataAddr c base imm) (fun i => v.extractLsb' (8 * i) 8) _ m h

/-- `MemWrite` writes inside the array (R68). -/
theorem Memory.writeData_inside {m : Memory} {c : Config} (hc : c.memoryDefined = true)
    (h : m.inside c.memSize = true) (base : Byte) (imm : Word16) (n : Nat) (v : Word32) :
    (m.writeData c base imm n v).inside c.memSize = true :=
  Memory.foldl_wr8_inside (dataAddr c base imm) (fun i => v.extractLsb' (8 * i) 8) (dataAddr_lt hc base imm) _ m h

theorem Memory.foldl_wr8_other (f : Nat → Nat) (g : Nat → Byte) (l : List Nat) (m : Memory) {a : Nat}
    (h : ∀ i ∈ l, a ≠ f i) : (l.foldl (fun m i => m.wr8 (f i) (g i)) m).rd8 a = m.rd8 a := by
  induction l generalizing m with
  | nil => rfl
  | cons i l ih =>
    simp only [List.foldl_cons]
    rw [ih _ fun j hj => h j (List.mem_cons_of_mem _ hj), Memory.rd8_wr8_other _ _ (h i List.mem_cons_self)]

/-- `MemWrite` changes no byte but those of the access, whatever form memory is in. -/
theorem Memory.rd8_writeData_other (m : Memory) (c : Config) (base : Byte) (imm : Word16) (n : Nat) (v : Word32) {a : Nat}
    (h : ∀ i < n, a ≠ dataAddr c base imm i) : (m.writeData c base imm n v).rd8 a = m.rd8 a :=
  Memory.foldl_wr8_other _ _ _ _ fun i hi => h i (List.mem_range.mp hi)

/-- `MemWrite` of one byte (SB). -/
theorem Memory.writeData_one (m : Memory) (c : Config) (base : Byte) (imm : Word16) (v : Word32) :
    m.writeData c base imm 1 v = m.wr8 (dataAddr c base imm 0) (v.extractLsb' 0 8) := rfl

/-- `MemWrite` of two bytes (SH), in ascending order. -/
theorem Memory.writeData_two (m : Memory) (c : Config) (base : Byte) (imm : Word16) (v : Word32) :
    m.writeData c base imm 2 v =
      (m.wr8 (dataAddr c base imm 0) (v.extractLsb' 0 8)).wr8 (dataAddr c base imm 1) (v.extractLsb' 8 8) := rfl

/-- `MemWrite` of four bytes (SW), in ascending order. -/
theorem Memory.writeData_four (m : Memory) (c : Config) (base : Byte) (imm : Word16) (v : Word32) :
    m.writeData c base imm 4 v =
      ((((m.wr8 (dataAddr c base imm 0) (v.extractLsb' 0 8)).wr8 (dataAddr c base imm 1) (v.extractLsb' 8 8)).wr8
        (dataAddr c base imm 2) (v.extractLsb' 16 8)).wr8 (dataAddr c base imm 3) (v.extractLsb' 24 8)) := rfl

/-- Byte `j` of `MemWrite` reads back as byte `j` of the value, for the widths of the stores (R74), in a memory of
four bytes or more. -/
theorem Memory.rd8_writeData {m : Memory} (h : m.wf = true) {c : Config} {k : Nat} (hc : c.memoryBits k) (hk : 2 ≤ k)
    (base : Byte) (imm : Word16) {n j : Nat} (v : Word32) (hn : n ≤ 4) (hj : j < n) :
    (m.writeData c base imm n v).rd8 (dataAddr c base imm j) = v.extractLsb' (8 * j) 8 := by
  unfold Memory.writeData
  induction n with
  | zero => omega
  | succ n ih =>
    rw [List.range_succ, List.foldl_append]
    simp only [List.foldl_cons, List.foldl_nil]
    by_cases hjn : j = n
    · subst hjn
      exact Memory.rd8_wr8_same (Memory.foldl_wr8_wf (dataAddr c base imm) _ _ m h) _ _
    · rw [Memory.rd8_wr8_other _ _ (dataAddr_ne hc hk base imm hjn (by omega) (by omega))]
      exact ih (by omega) (by omega)

/-- Byte 0 of `MemRead` is the byte at the first address. -/
theorem Memory.readData_byte0 (m : Memory) (c : Config) (base : Byte) (imm : Word16) (n : Nat) :
    (m.readData c base imm (n + 1)).extractLsb' 0 8 = m.rd8 (dataAddr c base imm 0) := by
  simp only [Memory.readData, List.range_succ_eq_map, List.map_cons, leWord]
  ext i hi
  simp only [BitVec.getElem_extractLsb', BitVec.getLsbD_or, BitVec.getLsbD_shiftLeft, BitVec.getLsbD_setWidth]
  have : i < 8 := hi
  have h32 : i < 32 := by omega
  simp [this, h32]

/-- Byte 1 of `MemRead` is the byte at the second address. -/
theorem Memory.readData_byte1 (m : Memory) (c : Config) (base : Byte) (imm : Word16) (n : Nat) :
    (m.readData c base imm (n + 2)).extractLsb' 8 8 = m.rd8 (dataAddr c base imm 1) := by
  simp only [Memory.readData, List.range_succ_eq_map, List.map_cons, leWord]
  ext i hi
  simp only [BitVec.getElem_extractLsb', BitVec.getLsbD_or, BitVec.getLsbD_shiftLeft, BitVec.getLsbD_setWidth]
  have h1 : 8 + i < 32 := by omega
  have h2 : i < 32 := by omega
  simp [h1, h2, hi]

/-! ## Loading an image -/

/-- Loading keeps the canonical form. -/
theorem Memory.load_wf {m : Memory} (h : m.wf = true) (a : Nat) (bs : List Byte) : (m.load a bs).wf = true := by
  induction bs generalizing m a with
  | nil => exact h
  | cons b bs ih => exact ih (Memory.wr8_wf h a b) (a + 1)

/-- Loading an image that fits lists no address outside the array. -/
theorem Memory.load_inside {m : Memory} {size : Nat} (h : m.inside size = true) (a : Nat) (bs : List Byte)
    (ha : a + bs.length ≤ size) : (m.load a bs).inside size = true := by
  induction bs generalizing m a with
  | nil => exact h
  | cons b bs ih =>
    simp only [List.length_cons] at ha
    exact ih (Memory.wr8_inside h (by omega) b) (a + 1) (by omega)

/-- Loading leaves the addresses outside the image alone. -/
theorem Memory.rd8_load_other (m : Memory) (a b : Nat) (bs : List Byte) (h : b < a ∨ a + bs.length ≤ b) :
    (m.load a bs).rd8 b = m.rd8 b := by
  induction bs generalizing m a with
  | nil => rfl
  | cons x bs ih =>
    simp only [List.length_cons] at h
    rw [Memory.load, ih _ _ (by omega), Memory.rd8_wr8_other _ _ (by omega)]

/-- Byte `k` of a loaded image. -/
theorem Memory.rd8_load {m : Memory} (h : m.wf = true) (a : Nat) (bs : List Byte) (k : Nat) (hk : k < bs.length) :
    (m.load a bs).rd8 (a + k) = bs[k] := by
  induction bs generalizing m a k with
  | nil => simp at hk
  | cons x bs ih =>
    simp only [List.length_cons] at hk
    have hw := Memory.wr8_wf h a x
    cases k with
    | zero =>
      rw [Memory.load, Memory.rd8_load_other _ _ _ _ (by omega)]
      exact Memory.rd8_wr8_same h a x
    | succ k =>
      rw [Memory.load, show a + (k + 1) = a + 1 + k by omega, ih hw (a + 1) k (by omega)]
      rfl

end Sys2Proof.Machine
end

