-- ==== Sys2Proof/Laws/State.lean ====
section
/-! SUPPORT. One lemma per field per named update of State, and how registers read after each update. -/

namespace Sys2Proof.Machine

/-! ## Fields after updates -/

@[simp] theorem State.writeReg_regs (s : State) (r : Reg) (v : Byte) : (s.writeReg r v).regs = s.regs.set r v := rfl
@[simp] theorem State.writeReg_pc (s : State) (r : Reg) (v : Byte) : (s.writeReg r v).pc = s.pc := rfl
@[simp] theorem State.writeReg_mem (s : State) (r : Reg) (v : Byte) : (s.writeReg r v).mem = s.mem := rfl
@[simp] theorem State.writeReg_run (s : State) (r : Reg) (v : Byte) : (s.writeReg r v).run = s.run := rfl
@[simp] theorem State.writeReg_lastPC (s : State) (r : Reg) (v : Byte) : (s.writeReg r v).lastPC = s.lastPC := rfl
@[simp] theorem State.writeReg_lastWord (s : State) (r : Reg) (v : Byte) : (s.writeReg r v).lastWord = s.lastWord := rfl
@[simp] theorem State.writeReg_steps (s : State) (r : Reg) (v : Byte) : (s.writeReg r v).steps = s.steps := rfl
@[simp] theorem State.writeReg_divErrors (s : State) (r : Reg) (v : Byte) : (s.writeReg r v).divErrors = s.divErrors := rfl
@[simp] theorem State.writeReg_index (s : State) (r : Reg) (v : Byte) : (s.writeReg r v).index = s.index := rfl
@[simp] theorem State.writeReg_stack (s : State) (r : Reg) (v : Byte) : (s.writeReg r v).stack = s.stack := rfl
@[simp] theorem State.writeReg_sp (s : State) (r : Reg) (v : Byte) : (s.writeReg r v).sp = s.sp := rfl
@[simp] theorem State.writeReg_timer0 (s : State) (r : Reg) (v : Byte) : (s.writeReg r v).timer0 = s.timer0 := rfl
@[simp] theorem State.writeReg_timer1 (s : State) (r : Reg) (v : Byte) : (s.writeReg r v).timer1 = s.timer1 := rfl
@[simp] theorem State.writeReg_cfg (s : State) (r : Reg) (v : Byte) : (s.writeReg r v).cfg = s.cfg := rfl

@[simp] theorem State.setPc_regs (s : State) (t : Word16) : (s.setPc t).regs = s.regs := rfl
@[simp] theorem State.setPc_pc (s : State) (t : Word16) : (s.setPc t).pc = t := rfl
@[simp] theorem State.setPc_mem (s : State) (t : Word16) : (s.setPc t).mem = s.mem := rfl
@[simp] theorem State.setPc_run (s : State) (t : Word16) : (s.setPc t).run = s.run := rfl
@[simp] theorem State.setPc_lastPC (s : State) (t : Word16) : (s.setPc t).lastPC = s.lastPC := rfl
@[simp] theorem State.setPc_lastWord (s : State) (t : Word16) : (s.setPc t).lastWord = s.lastWord := rfl
@[simp] theorem State.setPc_steps (s : State) (t : Word16) : (s.setPc t).steps = s.steps := rfl
@[simp] theorem State.setPc_divErrors (s : State) (t : Word16) : (s.setPc t).divErrors = s.divErrors := rfl
@[simp] theorem State.setPc_index (s : State) (t : Word16) : (s.setPc t).index = s.index := rfl
@[simp] theorem State.setPc_stack (s : State) (t : Word16) : (s.setPc t).stack = s.stack := rfl
@[simp] theorem State.setPc_sp (s : State) (t : Word16) : (s.setPc t).sp = s.sp := rfl
@[simp] theorem State.setPc_timer0 (s : State) (t : Word16) : (s.setPc t).timer0 = s.timer0 := rfl
@[simp] theorem State.setPc_timer1 (s : State) (t : Word16) : (s.setPc t).timer1 = s.timer1 := rfl
@[simp] theorem State.setPc_cfg (s : State) (t : Word16) : (s.setPc t).cfg = s.cfg := rfl

@[simp] theorem State.setMem_regs (s : State) (m : Memory) : (s.setMem m).regs = s.regs := rfl
@[simp] theorem State.setMem_pc (s : State) (m : Memory) : (s.setMem m).pc = s.pc := rfl
@[simp] theorem State.setMem_mem (s : State) (m : Memory) : (s.setMem m).mem = m := rfl
@[simp] theorem State.setMem_run (s : State) (m : Memory) : (s.setMem m).run = s.run := rfl
@[simp] theorem State.setMem_lastPC (s : State) (m : Memory) : (s.setMem m).lastPC = s.lastPC := rfl
@[simp] theorem State.setMem_lastWord (s : State) (m : Memory) : (s.setMem m).lastWord = s.lastWord := rfl
@[simp] theorem State.setMem_steps (s : State) (m : Memory) : (s.setMem m).steps = s.steps := rfl
@[simp] theorem State.setMem_divErrors (s : State) (m : Memory) : (s.setMem m).divErrors = s.divErrors := rfl
@[simp] theorem State.setMem_index (s : State) (m : Memory) : (s.setMem m).index = s.index := rfl
@[simp] theorem State.setMem_stack (s : State) (m : Memory) : (s.setMem m).stack = s.stack := rfl
@[simp] theorem State.setMem_sp (s : State) (m : Memory) : (s.setMem m).sp = s.sp := rfl
@[simp] theorem State.setMem_timer0 (s : State) (m : Memory) : (s.setMem m).timer0 = s.timer0 := rfl
@[simp] theorem State.setMem_timer1 (s : State) (m : Memory) : (s.setMem m).timer1 = s.timer1 := rfl
@[simp] theorem State.setMem_cfg (s : State) (m : Memory) : (s.setMem m).cfg = s.cfg := rfl

@[simp] theorem State.setRun_regs (s : State) (r : RunState) : (s.setRun r).regs = s.regs := rfl
@[simp] theorem State.setRun_pc (s : State) (r : RunState) : (s.setRun r).pc = s.pc := rfl
@[simp] theorem State.setRun_mem (s : State) (r : RunState) : (s.setRun r).mem = s.mem := rfl
@[simp] theorem State.setRun_run (s : State) (r : RunState) : (s.setRun r).run = r := rfl
@[simp] theorem State.setRun_lastPC (s : State) (r : RunState) : (s.setRun r).lastPC = s.lastPC := rfl
@[simp] theorem State.setRun_lastWord (s : State) (r : RunState) : (s.setRun r).lastWord = s.lastWord := rfl
@[simp] theorem State.setRun_steps (s : State) (r : RunState) : (s.setRun r).steps = s.steps := rfl
@[simp] theorem State.setRun_divErrors (s : State) (r : RunState) : (s.setRun r).divErrors = s.divErrors := rfl
@[simp] theorem State.setRun_index (s : State) (r : RunState) : (s.setRun r).index = s.index := rfl
@[simp] theorem State.setRun_stack (s : State) (r : RunState) : (s.setRun r).stack = s.stack := rfl
@[simp] theorem State.setRun_sp (s : State) (r : RunState) : (s.setRun r).sp = s.sp := rfl
@[simp] theorem State.setRun_timer0 (s : State) (r : RunState) : (s.setRun r).timer0 = s.timer0 := rfl
@[simp] theorem State.setRun_timer1 (s : State) (r : RunState) : (s.setRun r).timer1 = s.timer1 := rfl
@[simp] theorem State.setRun_cfg (s : State) (r : RunState) : (s.setRun r).cfg = s.cfg := rfl

@[simp] theorem State.recordFetch_regs (s : State) (w : Word32) : (s.recordFetch w).regs = s.regs := rfl
@[simp] theorem State.recordFetch_pc (s : State) (w : Word32) : (s.recordFetch w).pc = s.pc := rfl
@[simp] theorem State.recordFetch_mem (s : State) (w : Word32) : (s.recordFetch w).mem = s.mem := rfl
@[simp] theorem State.recordFetch_run (s : State) (w : Word32) : (s.recordFetch w).run = s.run := rfl
@[simp] theorem State.recordFetch_lastPC (s : State) (w : Word32) : (s.recordFetch w).lastPC = s.pc := rfl
@[simp] theorem State.recordFetch_lastWord (s : State) (w : Word32) : (s.recordFetch w).lastWord = w := rfl
@[simp] theorem State.recordFetch_steps (s : State) (w : Word32) : (s.recordFetch w).steps = s.steps := rfl
@[simp] theorem State.recordFetch_divErrors (s : State) (w : Word32) : (s.recordFetch w).divErrors = s.divErrors := rfl
@[simp] theorem State.recordFetch_index (s : State) (w : Word32) : (s.recordFetch w).index = s.index := rfl
@[simp] theorem State.recordFetch_stack (s : State) (w : Word32) : (s.recordFetch w).stack = s.stack := rfl
@[simp] theorem State.recordFetch_sp (s : State) (w : Word32) : (s.recordFetch w).sp = s.sp := rfl
@[simp] theorem State.recordFetch_timer0 (s : State) (w : Word32) : (s.recordFetch w).timer0 = s.timer0 := rfl
@[simp] theorem State.recordFetch_timer1 (s : State) (w : Word32) : (s.recordFetch w).timer1 = s.timer1 := rfl
@[simp] theorem State.recordFetch_cfg (s : State) (w : Word32) : (s.recordFetch w).cfg = s.cfg := rfl

@[simp] theorem State.recordDivError_regs (s : State) : (s.recordDivError).regs = s.regs := rfl
@[simp] theorem State.recordDivError_pc (s : State) : (s.recordDivError).pc = s.pc := rfl
@[simp] theorem State.recordDivError_mem (s : State) : (s.recordDivError).mem = s.mem := rfl
@[simp] theorem State.recordDivError_run (s : State) : (s.recordDivError).run = s.run := rfl
@[simp] theorem State.recordDivError_lastPC (s : State) : (s.recordDivError).lastPC = s.lastPC := rfl
@[simp] theorem State.recordDivError_lastWord (s : State) : (s.recordDivError).lastWord = s.lastWord := rfl
@[simp] theorem State.recordDivError_steps (s : State) : (s.recordDivError).steps = s.steps := rfl
@[simp] theorem State.recordDivError_divErrors (s : State) : (s.recordDivError).divErrors = s.divErrors ++ [s.pc] := rfl
@[simp] theorem State.recordDivError_index (s : State) : (s.recordDivError).index = s.index := rfl
@[simp] theorem State.recordDivError_stack (s : State) : (s.recordDivError).stack = s.stack := rfl
@[simp] theorem State.recordDivError_sp (s : State) : (s.recordDivError).sp = s.sp := rfl
@[simp] theorem State.recordDivError_timer0 (s : State) : (s.recordDivError).timer0 = s.timer0 := rfl
@[simp] theorem State.recordDivError_timer1 (s : State) : (s.recordDivError).timer1 = s.timer1 := rfl
@[simp] theorem State.recordDivError_cfg (s : State) : (s.recordDivError).cfg = s.cfg := rfl

/-! ## A step is counted: only `steps` changes, and not after a refused step -/

@[simp] theorem State.countStep_regs (s : State) : s.countStep.regs = s.regs := by
  unfold State.countStep; split <;> rfl
@[simp] theorem State.countStep_pc (s : State) : s.countStep.pc = s.pc := by
  unfold State.countStep; split <;> rfl
@[simp] theorem State.countStep_mem (s : State) : s.countStep.mem = s.mem := by
  unfold State.countStep; split <;> rfl
@[simp] theorem State.countStep_run (s : State) : s.countStep.run = s.run := by
  unfold State.countStep; split <;> rfl
@[simp] theorem State.countStep_lastPC (s : State) : s.countStep.lastPC = s.lastPC := by
  unfold State.countStep; split <;> rfl
@[simp] theorem State.countStep_lastWord (s : State) : s.countStep.lastWord = s.lastWord := by
  unfold State.countStep; split <;> rfl
@[simp] theorem State.countStep_divErrors (s : State) : s.countStep.divErrors = s.divErrors := by
  unfold State.countStep; split <;> rfl
@[simp] theorem State.countStep_index (s : State) : s.countStep.index = s.index := by
  unfold State.countStep; split <;> rfl
@[simp] theorem State.countStep_stack (s : State) : s.countStep.stack = s.stack := by
  unfold State.countStep; split <;> rfl
@[simp] theorem State.countStep_sp (s : State) : s.countStep.sp = s.sp := by
  unfold State.countStep; split <;> rfl
@[simp] theorem State.countStep_timer0 (s : State) : s.countStep.timer0 = s.timer0 := by
  unfold State.countStep; split <;> rfl
@[simp] theorem State.countStep_timer1 (s : State) : s.countStep.timer1 = s.timer1 := by
  unfold State.countStep; split <;> rfl
@[simp] theorem State.countStep_cfg (s : State) : s.countStep.cfg = s.cfg := by
  unfold State.countStep; split <;> rfl
theorem State.countStep_steps (s : State) :
    s.countStep.steps = if s.run = .refused then s.steps else s.steps + 1 := by
  unfold State.countStep; split <;> rfl

/-! ## Registers after updates -/

theorem State.readReg_writeReg (s : State) (r q : Reg) (v : Byte) :
    (s.writeReg r v).readReg q = if q = r then v else s.readReg q := by
  simp only [State.readReg, State.writeReg, Fin.getElem_fin, Vector.getElem_set, Fin.ext_iff, eq_comm (a := q.val)]

@[simp] theorem State.readReg_writeReg_same (s : State) (r : Reg) (v : Byte) : (s.writeReg r v).readReg r = v := by
  simp [State.readReg_writeReg]

@[simp] theorem State.readReg_writeReg_other (s : State) {r q : Reg} (v : Byte) (h : q ≠ r) :
    (s.writeReg r v).readReg q = s.readReg q := by
  simp [State.readReg_writeReg, h]

/-- Registers are the same exactly when the register file is. -/
theorem State.regs_eq_of_readReg {s t : State} (h : ∀ r, t.readReg r = s.readReg r) : t.regs = s.regs := by
  apply Vector.ext
  intro i hi
  exact h ⟨i, hi⟩

@[simp] theorem State.readReg_setPc (s : State) (t : Word16) (q : Reg) : (s.setPc t).readReg q = s.readReg q := rfl
@[simp] theorem State.readReg_setMem (s : State) (m : Memory) (q : Reg) : (s.setMem m).readReg q = s.readReg q := rfl
@[simp] theorem State.readReg_setRun (s : State) (x : RunState) (q : Reg) : (s.setRun x).readReg q = s.readReg q := rfl
@[simp] theorem State.readReg_recordFetch (s : State) (w : Word32) (q : Reg) : (s.recordFetch w).readReg q = s.readReg q := rfl
@[simp] theorem State.readReg_recordDivError (s : State) (q : Reg) : (s.recordDivError).readReg q = s.readReg q := rfl
@[simp] theorem State.readReg_countStep (s : State) (q : Reg) : s.countStep.readReg q = s.readReg q := by
  simp [State.readReg]

/-! ## next_pc depends on pc only -/

@[simp] theorem State.nextPc_writeReg (s : State) (r : Reg) (v : Byte) (n : Nat) : (s.writeReg r v).nextPc n = s.nextPc n := rfl
@[simp] theorem State.nextPc_setMem (s : State) (m : Memory) (n : Nat) : (s.setMem m).nextPc n = s.nextPc n := rfl
@[simp] theorem State.nextPc_setRun (s : State) (x : RunState) (n : Nat) : (s.setRun x).nextPc n = s.nextPc n := rfl
@[simp] theorem State.nextPc_recordFetch (s : State) (w : Word32) (n : Nat) : (s.recordFetch w).nextPc n = s.nextPc n := rfl
@[simp] theorem State.nextPc_recordDivError (s : State) (n : Nat) : (s.recordDivError).nextPc n = s.nextPc n := rfl

theorem State.nextPc_toNat (s : State) (len : Nat) : (s.nextPc len).toNat = (s.pc.toNat + len) % 65536 := by
  simp only [State.nextPc, mod16, BitVec.toNat_ofInt]
  omega

/-! ## Taking a fatal error: run, lastPC and lastWord change, nothing else -/

@[simp] theorem State.raiseFatal_regs (s : State) (k : ErrorKind) (w : Word32) : (s.raiseFatal k w).regs = s.regs := rfl
@[simp] theorem State.raiseFatal_pc (s : State) (k : ErrorKind) (w : Word32) : (s.raiseFatal k w).pc = s.pc := rfl
@[simp] theorem State.raiseFatal_mem (s : State) (k : ErrorKind) (w : Word32) : (s.raiseFatal k w).mem = s.mem := rfl
@[simp] theorem State.raiseFatal_run (s : State) (k : ErrorKind) (w : Word32) : (s.raiseFatal k w).run = .faulted k := rfl
@[simp] theorem State.raiseFatal_lastPC (s : State) (k : ErrorKind) (w : Word32) : (s.raiseFatal k w).lastPC = s.pc := rfl
@[simp] theorem State.raiseFatal_lastWord (s : State) (k : ErrorKind) (w : Word32) : (s.raiseFatal k w).lastWord = w := rfl
@[simp] theorem State.raiseFatal_steps (s : State) (k : ErrorKind) (w : Word32) : (s.raiseFatal k w).steps = s.steps := rfl
@[simp] theorem State.raiseFatal_divErrors (s : State) (k : ErrorKind) (w : Word32) : (s.raiseFatal k w).divErrors = s.divErrors := rfl
@[simp] theorem State.raiseFatal_index (s : State) (k : ErrorKind) (w : Word32) : (s.raiseFatal k w).index = s.index := rfl
@[simp] theorem State.raiseFatal_stack (s : State) (k : ErrorKind) (w : Word32) : (s.raiseFatal k w).stack = s.stack := rfl
@[simp] theorem State.raiseFatal_sp (s : State) (k : ErrorKind) (w : Word32) : (s.raiseFatal k w).sp = s.sp := rfl
@[simp] theorem State.raiseFatal_timer0 (s : State) (k : ErrorKind) (w : Word32) : (s.raiseFatal k w).timer0 = s.timer0 := rfl
@[simp] theorem State.raiseFatal_timer1 (s : State) (k : ErrorKind) (w : Word32) : (s.raiseFatal k w).timer1 = s.timer1 := rfl
@[simp] theorem State.raiseFatal_cfg (s : State) (k : ErrorKind) (w : Word32) : (s.raiseFatal k w).cfg = s.cfg := rfl
@[simp] theorem State.readReg_raiseFatal (s : State) (k : ErrorKind) (w : Word32) (q : Reg) :
    (s.raiseFatal k w).readReg q = s.readReg q := rfl

end Sys2Proof.Machine
end

