-- ==== Sys2Proof/Laws/Operations.lean ====
section
/-! SUPPORT. What each shared operation does, said once: the ALU and the ends of the instruction families, the targets and
links, the operand forms. -/

namespace Sys2Proof.Machine

/-! ## Operand forms -/

theorem aluImm_toNat (imm : Word16) : (aluImm imm).toNat = imm.toNat % 256 := by
  simp [aluImm]

theorem shiftAmount_toNat (shamt : Byte) : (shiftAmount shamt).toNat = shamt.toNat % 32 := by
  simp only [shiftAmount, BitVec.toNat_and]
  exact Nat.and_two_pow_sub_one_eq_mod _ 5

theorem luiValue_toNat (imm : Word16) : (luiValue imm).toNat = imm.toNat / 256 := by
  have := imm.isLt
  simp only [luiValue, BitVec.extractLsb'_toNat, Nat.shiftRight_eq_div_pow]
  omega

theorem linkValue_toNat (p : Word16) : (linkValue p).toNat = p.toNat / 256 := by
  have := p.isLt
  simp only [linkValue, BitVec.extractLsb'_toNat, Nat.shiftRight_eq_div_pow]
  omega

theorem auipcValue_toNat (p imm : Word16) : (auipcValue p imm).toNat = (p.toNat / 256 + imm.toNat) % 256 := by
  simp only [auipcValue, BitVec.toNat_ofNat, Nat.shiftRight_eq_div_pow, Nat.shiftLeft_eq]
  omega

/-- Bit-vector form of a branch target. -/
theorem branchTarget_eq (p imm : Word16) : branchTarget p imm = p + imm := by
  apply BitVec.eq_of_toInt_eq
  simp only [branchTarget, mod16, BitVec.toInt_ofInt, BitVec.toInt_add]
  rw [BitVec.toInt_eq_toNat_bmod p]
  simp

/-- Bit-vector form of JAL's target. -/
theorem jalTarget_eq (p : Word16) (imm : BitVec 20) : jalTarget p imm = p + imm.setWidth 16 := by
  apply BitVec.eq_of_toNat_eq
  have hp := p.isLt
  have hi := imm.isLt
  simp only [jalTarget, mod16, BitVec.toNat_ofInt, BitVec.toNat_add, BitVec.toNat_setWidth, BitVec.toInt_eq_toNat_cond]
  split <;> omega

/-- Bit-vector form of JALR's target. -/
theorem jalrTarget_eq (b : Byte) (imm : Word16) : jalrTarget b imm = (b.setWidth 16 + imm) &&& 0xFFFE := by
  unfold jalrTarget
  congr 1
  apply BitVec.eq_of_toNat_eq
  have hb := b.isLt
  have hi := imm.isLt
  simp only [mod16, BitVec.toNat_ofInt, BitVec.toNat_add, BitVec.toNat_setWidth, BitVec.toInt_eq_toNat_cond]
  split <;> omega

theorem pairAllowed_eq (c : Config) (r : Reg) : pairAllowed c r = true ↔ c.pairWrap = .wrap ∨ r ≠ 15 := by
  unfold pairAllowed
  cases c.pairWrap <;> simp

/-! ## The conditions of the branches -/

theorem s8_eq_toInt (v : Byte) : s8 v = v.toInt := rfl

@[simp] theorem Cond.holds_eq (a b : Byte) : Cond.eq.holds a b = true ↔ s8 a = s8 b := by simp [Cond.holds]
@[simp] theorem Cond.holds_ne (a b : Byte) : Cond.ne.holds a b = true ↔ s8 a ≠ s8 b := by simp [Cond.holds]
@[simp] theorem Cond.holds_lt (a b : Byte) : Cond.lt.holds a b = true ↔ s8 a < s8 b := by simp [Cond.holds]
@[simp] theorem Cond.holds_gt (a b : Byte) : Cond.gt.holds a b = true ↔ s8 a > s8 b := by simp [Cond.holds]
@[simp] theorem Cond.holds_le (a b : Byte) : Cond.le.holds a b = true ↔ s8 a ≤ s8 b := by simp [Cond.holds]
@[simp] theorem Cond.holds_ge (a b : Byte) : Cond.ge.holds a b = true ↔ s8 a ≥ s8 b := by simp [Cond.holds]

/-! ## The ends of the instruction families -/

theorem finishAlu_ok (s : State) (rd : Reg) (v : Byte) (len : Nat) :
    s.finishAlu rd (.ok v) len = (s.writeReg rd v).setPc (s.nextPc len) := rfl

theorem finishAlu_divZero (s : State) (rd : Reg) (len : Nat) :
    s.finishAlu rd .divZero len = s.recordDivError.setPc (s.nextPc len) := rfl

/-- Everything the end of an ALU instruction can do. -/
theorem finishAlu_cases (s : State) (rd : Reg) (r : AluResult) (len : Nat) :
    (∃ v, r = .ok v ∧ s.finishAlu rd r len = (s.writeReg rd v).setPc (s.nextPc len)) ∨
      (r = .divZero ∧ s.finishAlu rd r len = s.recordDivError.setPc (s.nextPc len)) := by
  cases r with
  | ok v => exact .inl ⟨v, rfl, rfl⟩
  | divZero => exact .inr ⟨rfl, rfl⟩

/-- The ALU answers DivZero exactly for DIV by zero (R140). -/
theorem alu_eq_divZero (op : AluOp) (a b : Byte) : alu op a b = .divZero ↔ op = .div ∧ b = 0 := by
  cases op <;> simp [alu]

theorem alu_div_zero (a : Byte) {b : Byte} (h : b = 0) : alu .div a b = .divZero := if_pos h

theorem alu_div_ok (a : Byte) {b : Byte} (h : b ≠ 0) : alu .div a b = .ok (a / b) := if_neg h

/-- Everything a branch can do. -/
theorem branchIf_cases (c : Cond) (rs1 rs2 : Reg) (imm : Word16) (s : State) :
    (c.holds (s.readReg rs1) (s.readReg rs2) = true ∧
        branchIf c rs1 rs2 imm s = s.setPc (branchTarget (s.nextPc 4) imm)) ∨
      (c.holds (s.readReg rs1) (s.readReg rs2) = false ∧ branchIf c rs1 rs2 imm s = s.setPc (s.nextPc 4)) := by
  unfold branchIf
  cases h : c.holds (s.readReg rs1) (s.readReg rs2)
  · exact .inr ⟨rfl, rfl⟩
  · exact .inl ⟨rfl, rfl⟩

/-! ## Every instruction -/

/-- Everything exec can do: it always answers a next state, which is the old one with registers, pc, memory, run and
divErrors changed, in one of five shapes. -/
theorem exec_cases (i : Instr) (s : State) :
    ∃ t, exec i s = .next t ∧
      ((∃ rs p, t = { s with regs := rs, pc := p }) ∨
       (∃ p, t = s.recordDivError.setPc p) ∨
       (∃ rs1 imm n v p, t = (s.setMem (s.mem.writeData s.cfg (s.readReg rs1) imm n v)).setPc p) ∨
       (i = .halt ∧ t = s.setRun .halted) ∨
       (s.cfg.pairWrap = .refuse ∧ t = s.setRun .refused)) := by
  have hAlu : ∀ rd r len, (∃ rs p, s.finishAlu rd r len = { s with regs := rs, pc := p }) ∨
      (∃ p, s.finishAlu rd r len = s.recordDivError.setPc p) := by
    intro rd r len
    cases r with
    | ok v => exact .inl ⟨_, _, rfl⟩
    | divZero => exact .inr ⟨_, rfl⟩
  have hBr : ∀ c rs1 rs2 imm, ∃ rs p, branchIf c rs1 rs2 imm s = { s with regs := rs, pc := p } := by
    intro c rs1 rs2 imm
    exact ⟨_, _, rfl⟩
  cases i with
  | lui rd imm => exact ⟨_, rfl, .inl ⟨_, _, rfl⟩⟩
  | auipc rd imm => exact ⟨_, rfl, .inl ⟨_, _, rfl⟩⟩
  | lb rd rs1 imm => exact ⟨_, rfl, .inl ⟨_, _, rfl⟩⟩
  | lh rd rs1 imm => exact ⟨_, rfl, .inl ⟨_, _, rfl⟩⟩
  | lw rd rs1 imm =>
    by_cases h : pairAllowed s.cfg rd = true
    · exact ⟨_, by simp only [exec, execLw, h, if_true]; rfl, .inl ⟨_, _, rfl⟩⟩
    · refine ⟨_, by simp only [exec, execLw, h]; rfl, .inr (.inr (.inr (.inr ⟨?_, rfl⟩)))⟩
      revert h; unfold pairAllowed; cases s.cfg.pairWrap <;> simp
  | sb rs1 rs2 imm => exact ⟨_, rfl, .inr (.inr (.inl ⟨_, _, _, _, _, rfl⟩))⟩
  | sh rs1 rs2 imm => exact ⟨_, rfl, .inr (.inr (.inl ⟨_, _, _, _, _, rfl⟩))⟩
  | sw rs1 rs2 imm =>
    by_cases h : pairAllowed s.cfg rs2 = true
    · exact ⟨_, by simp only [exec, execSw, h, if_true]; rfl, .inr (.inr (.inl ⟨_, _, _, _, _, rfl⟩))⟩
    · refine ⟨_, by simp only [exec, execSw, h]; rfl, .inr (.inr (.inr (.inr ⟨?_, rfl⟩)))⟩
      revert h; unfold pairAllowed; cases s.cfg.pairWrap <;> simp
  | beq rs1 rs2 imm => exact ⟨_, rfl, .inl (hBr _ _ _ _)⟩
  | bne rs1 rs2 imm => exact ⟨_, rfl, .inl (hBr _ _ _ _)⟩
  | blt rs1 rs2 imm => exact ⟨_, rfl, .inl (hBr _ _ _ _)⟩
  | bgt rs1 rs2 imm => exact ⟨_, rfl, .inl (hBr _ _ _ _)⟩
  | ble rs1 rs2 imm => exact ⟨_, rfl, .inl (hBr _ _ _ _)⟩
  | bge rs1 rs2 imm => exact ⟨_, rfl, .inl (hBr _ _ _ _)⟩
  | jal rd imm => exact ⟨_, rfl, .inl ⟨_, _, rfl⟩⟩
  | jalr rd rs1 imm => exact ⟨_, rfl, .inl ⟨_, _, rfl⟩⟩
  | halt => exact ⟨_, rfl, .inr (.inr (.inr (.inl ⟨rfl, rfl⟩)))⟩
  | _ =>
    refine ⟨_, rfl, ?_⟩
    rcases hAlu _ _ _ with h | h
    · exact .inl h
    · exact .inr (.inl h)

/-- What no instruction changes: the diagnostic registers, the step count, the reserved state, the parameters (R41, R42,
R44 to R46). -/
theorem exec_keeps {i : Instr} {s t : State} (h : exec i s = .next t) :
    t.lastPC = s.lastPC ∧ t.lastWord = s.lastWord ∧ t.steps = s.steps ∧ t.index = s.index ∧ t.stack = s.stack ∧
      t.sp = s.sp ∧ t.timer0 = s.timer0 ∧ t.timer1 = s.timer1 ∧ t.cfg = s.cfg := by
  obtain ⟨u, hu, hc⟩ := exec_cases i s
  rw [hu] at h
  cases h
  rcases hc with ⟨_, _, rfl⟩ | ⟨_, rfl⟩ | ⟨_, _, _, _, _, rfl⟩ | ⟨_, rfl⟩ | ⟨_, rfl⟩ <;>
    exact ⟨rfl, rfl, rfl, rfl, rfl, rfl, rfl, rfl, rfl⟩

/-- What an instruction does to the run state: nothing, but for HALT and a refused form. -/
theorem exec_run {i : Instr} {s t : State} (h : exec i s = .next t) :
    t.run = s.run ∨ (t.run = .halted ∧ t.pc = s.pc ∧ t.divErrors = s.divErrors) ∨
      (t.run = .refused ∧ s.cfg.pairWrap = .refuse ∧ t.pc = s.pc ∧ t.divErrors = s.divErrors) := by
  obtain ⟨u, hu, hc⟩ := exec_cases i s
  rw [hu] at h
  cases h
  rcases hc with ⟨_, _, rfl⟩ | ⟨_, rfl⟩ | ⟨_, _, _, _, _, rfl⟩ | ⟨_, rfl⟩ | ⟨hp, rfl⟩
  · exact .inl rfl
  · exact .inl rfl
  · exact .inl rfl
  · exact .inr (.inl ⟨rfl, rfl, rfl⟩)
  · exact .inr (.inr ⟨rfl, hp, rfl, rfl⟩)

/-- Every instruction keeps memory's canonical form. -/
theorem exec_mem_wf {i : Instr} {s t : State} (h : exec i s = .next t) (hm : s.mem.wf = true) : t.mem.wf = true := by
  obtain ⟨u, hu, hc⟩ := exec_cases i s
  rw [hu] at h
  cases h
  rcases hc with ⟨_, _, rfl⟩ | ⟨_, rfl⟩ | ⟨_, _, _, _, _, rfl⟩ | ⟨_, rfl⟩ | ⟨_, rfl⟩
  · exact hm
  · exact hm
  · exact Memory.writeData_wf hm _ _ _ _ _
  · exact hm
  · exact hm

/-- Every instruction keeps memory inside the array (R68). -/
theorem exec_mem_inside {i : Instr} {s t : State} (h : exec i s = .next t) (hc : s.cfg.memoryDefined = true)
    (hm : s.mem.inside s.cfg.memSize = true) : t.mem.inside s.cfg.memSize = true := by
  obtain ⟨u, hu, hs⟩ := exec_cases i s
  rw [hu] at h
  cases h
  rcases hs with ⟨_, _, rfl⟩ | ⟨_, rfl⟩ | ⟨_, _, _, _, _, rfl⟩ | ⟨_, rfl⟩ | ⟨_, rfl⟩
  · exact hm
  · exact hm
  · exact Memory.writeData_inside hc hm _ _ _ _
  · exact hm
  · exact hm

/-- What an instruction does to the division-error record: at most one pc is appended (R43). -/
theorem exec_divErrors {i : Instr} {s t : State} (h : exec i s = .next t) :
    t.divErrors = s.divErrors ∨ (t.divErrors = s.divErrors ++ [s.pc] ∧ t.run = s.run) := by
  obtain ⟨u, hu, hc⟩ := exec_cases i s
  rw [hu] at h
  cases h
  rcases hc with ⟨_, _, rfl⟩ | ⟨_, rfl⟩ | ⟨_, _, _, _, _, rfl⟩ | ⟨_, rfl⟩ | ⟨_, rfl⟩
  · exact .inl rfl
  · exact .inr ⟨rfl, rfl⟩
  · exact .inl rfl
  · exact .inl rfl
  · exact .inl rfl

end Sys2Proof.Machine
end

