-- ==== Sys2Proof/Laws/Cycle.lean ====
section
/-! SUPPORT. Everything a step can do, said once, and what a fetch answers. -/

namespace Sys2Proof.Machine

/-! ## The program region -/

theorem inRegion_iff (c : Config) (a : Nat) :
    inRegion c a = true ↔ c.progBase.toNat ≤ a ∧ a < c.progLimit := by
  simp [inRegion]

theorem romFits_iff (c : Config) : c.romFits = true ↔ c.progLimit ≤ c.memSize := by
  simp [Config.romFits]

/-- An address of the region of a ROM that fits is an address of the array. -/
theorem inRegion_lt_memSize {c : Config} {a : Nat} (hf : c.romFits = true) (h : inRegion c a = true) : a < c.memSize := by
  rw [inRegion_iff] at h
  rw [romFits_iff] at hf
  omega

theorem firstOutside_none {c : Config} {a n : Nat} :
    firstOutside c a n = none ↔ ∀ k < n, inRegion c (a + k) = true := by
  induction n generalizing a with
  | zero => simp [firstOutside]
  | succ n ih =>
    unfold firstOutside
    constructor
    · intro h k hk
      split at h
      · rename_i h0
        cases k with
        | zero => exact h0
        | succ k =>
          have := (ih.mp h) k (by omega)
          rwa [show a + (k + 1) = a + 1 + k by omega]
      · cases h
    · intro h
      have h0 : inRegion c a = true := h 0 (by omega)
      rw [if_pos h0, ih]
      intro k hk
      have := h (k + 1) (by omega)
      rwa [show a + (k + 1) = a + 1 + k by omega] at this

theorem firstOutside_some {c : Config} {a n b : Nat} :
    firstOutside c a n = some b ↔
      ∃ k < n, b = a + k ∧ inRegion c b = false ∧ ∀ j < k, inRegion c (a + j) = true := by
  induction n generalizing a with
  | zero => simp [firstOutside]
  | succ n ih =>
    unfold firstOutside
    by_cases h0 : inRegion c a = true
    · rw [if_pos h0, ih]
      constructor
      · rintro ⟨k, hk, rfl, hb, hj⟩
        refine ⟨k + 1, by omega, by omega, hb, ?_⟩
        intro j hjk
        cases j with
        | zero => exact h0
        | succ j =>
          have := hj j (by omega)
          rwa [show a + (j + 1) = a + 1 + j by omega]
      · rintro ⟨k, hk, rfl, hb, hj⟩
        cases k with
        | zero => simp [h0] at hb
        | succ k =>
          refine ⟨k, by omega, by omega, hb, ?_⟩
          intro j hjk
          have := hj (j + 1) (by omega)
          rwa [show a + (j + 1) = a + 1 + j by omega] at this
    · rw [if_neg h0]
      constructor
      · intro h
        cases h
        exact ⟨0, by omega, rfl, by simpa using h0, by omega⟩
      · rintro ⟨k, hk, rfl, hb, hj⟩
        cases k with
        | zero => rfl
        | succ k => exact absurd (hj 0 (by omega)) h0

/-! ## Fetching -/

/-- A fetch error is UnknownInstruction, or PcOutOfBounds of an address outside the region (R240). -/
theorem fetch_error_kind {s : State} {kind : ErrorKind} {w : Word32} (h : fetch s = .error kind w) :
    kind = .unknownInstruction ∨ ∃ a, kind = .pcOutOfBounds a ∧ inRegion s.cfg a = false := by
  have hw : ∀ d f, fetchWhole s d f = .error kind w →
      kind = .unknownInstruction ∨ ∃ a, kind = .pcOutOfBounds a ∧ inRegion s.cfg a = false := by
    intro d f hf
    unfold fetchWhole at hf
    split at hf
    · cases hf; exact .inl rfl
    · split at hf
      · rename_i bad hb
        cases hf
        obtain ⟨_, _, _, hb, _⟩ := firstOutside_some.mp hb
        exact .inr ⟨bad, rfl, hb⟩
      · cases hf
  unfold fetch at h
  simp only at h
  split at h
  · rename_i hp
    cases h
    exact .inr ⟨_, rfl, by simpa using hp⟩
  · split at h
    · split at h
      · rename_i hp
        cases h
        exact .inr ⟨_, rfl, by simpa using hp⟩
      · exact hw _ _ h
    · exact hw _ _ h

/-- The bytes a step reads do not depend on anything but pc, memory and the parameters. -/
theorem fetch_congr {s t : State} (hpc : t.pc = s.pc) (hm : t.mem = s.mem) (hc : t.cfg = s.cfg) : fetch t = fetch s := by
  simp only [fetch, fetchWhole, hpc, hm, hc]

/-! ## Stepping -/

/-- Everything a step can do. -/
theorem step_cases (s : State) :
    (∃ r, s.run = r ∧ r ≠ .running ∧ step s = .fault (.stopped r)) ∨
    (s.run = .running ∧ s.cfg.memoryDefined = false ∧ step s = .refused .memoryPairUndefined) ∨
    (s.run = .running ∧ s.cfg.memoryDefined = true ∧ s.cfg.romFits = false ∧ step s = .refused .romDoesNotFit) ∨
    (s.run = .running ∧ s.cfg.memoryDefined = true ∧ s.cfg.romFits = true ∧ s.cfg.maxSteps ≤ s.steps ∧
      step s = .next (s.setRun .ceilingReached)) ∨
    (s.run = .running ∧ s.cfg.memoryDefined = true ∧ s.cfg.romFits = true ∧ s.steps < s.cfg.maxSteps ∧
      ∃ kind w, fetch s = .error kind w ∧ step s = .next (s.raiseFatal kind w)) ∨
    (s.run = .running ∧ s.cfg.memoryDefined = true ∧ s.cfg.romFits = true ∧ s.steps < s.cfg.maxSteps ∧
      ∃ d w t, fetch s = .ok d w ∧ exec (decodeFields w d).toInstr (s.recordFetch w) = .next t ∧
        step s = .next t.countStep) := by
  by_cases hr : s.run = .running
  · refine .inr ?_
    cases hd : s.cfg.memoryDefined
    · exact .inl ⟨hr, rfl, by simp [step, stepAny, hr, hd]⟩
    refine .inr ?_
    cases hf : s.cfg.romFits
    · exact .inl ⟨hr, rfl, rfl, by simp [step, stepAny, hr, hd, hf]⟩
    refine .inr ?_
    have hs : step s = cycle s := by simp [step, stepAny, hr, hd, hf]
    by_cases hm : s.cfg.maxSteps ≤ s.steps
    · exact .inl ⟨hr, rfl, rfl, hm, by rw [hs, cycle, if_pos hm]⟩
    refine .inr ?_
    cases hfe : fetch s with
    | error kind w => exact .inl ⟨hr, rfl, rfl, by omega, kind, w, rfl, by rw [hs, cycle, if_neg hm, hfe]⟩
    | ok d w =>
      obtain ⟨t, ht, -⟩ := exec_cases (decodeFields w d).toInstr (s.recordFetch w)
      refine .inr ⟨hr, rfl, rfl, by omega, d, w, t, rfl, ht, ?_⟩
      rw [hs, cycle, if_neg hm, hfe]
      simp only [ht]
  · refine .inl ⟨s.run, rfl, hr, ?_⟩
    cases h : s.run <;> simp_all [step, stepAny]

/-- A step that answers a next state came from Running with a size and a mask that agree and a ROM that fits, in one of
three ways. -/
theorem step_next_cases {s t : State} (h : step s = .next t) :
    s.run = .running ∧ s.cfg.memoryDefined = true ∧ s.cfg.romFits = true ∧
      ((s.cfg.maxSteps ≤ s.steps ∧ t = s.setRun .ceilingReached) ∨
       (s.steps < s.cfg.maxSteps ∧ ∃ kind w, fetch s = .error kind w ∧ t = s.raiseFatal kind w) ∨
       (s.steps < s.cfg.maxSteps ∧ ∃ d w u, fetch s = .ok d w ∧
          exec (decodeFields w d).toInstr (s.recordFetch w) = .next u ∧ t = u.countStep)) := by
  rcases step_cases s with ⟨r, -, -, hs⟩ | ⟨-, -, hs⟩ | ⟨-, -, -, hs⟩ | ⟨hr, hd, hf, hm, hs⟩ |
      ⟨hr, hd, hf, hm, k, w, hfe, hs⟩ | ⟨hr, hd, hf, hm, d, w, u, hfe, hx, hs⟩
  · rw [hs] at h; cases h
  · rw [hs] at h; cases h
  · rw [hs] at h; cases h
  · rw [hs] at h; cases h; exact ⟨hr, hd, hf, .inl ⟨hm, rfl⟩⟩
  · rw [hs] at h; cases h; exact ⟨hr, hd, hf, .inr (.inl ⟨hm, k, w, hfe, rfl⟩)⟩
  · rw [hs] at h; cases h; exact ⟨hr, hd, hf, .inr (.inr ⟨hm, d, w, u, hfe, hx, rfl⟩)⟩

/-- The step from a ready state: a fatal error of the fetch is taken, a decoded instruction is executed and counted. -/
theorem step_of_ready {s : State} (h : s.ready) :
    step s = match fetch s with
      | .error kind fetched => .next (s.raiseFatal kind fetched)
      | .ok d w => mapNext State.countStep (exec (decodeFields w d).toInstr (s.recordFetch w)) := by
  obtain ⟨hr, hm, hd, hf⟩ := h
  have hs : step s = cycle s := by simp [step, stepAny, hr, hd, hf]
  rw [hs, cycle]
  rw [if_neg (by omega)]
  cases fetch s with
  | error => rfl
  | ok d w => rfl

/-- A run of any core of one step more begins with the step. -/
theorem coreRun_succ_of_next (M : Host.Core) {s u : M.State} (h : M.step s = .next u) (k : Nat) :
    M.run (k + 1) s = M.run k u := by
  simp only [Host.Core.run, h]

/-- A run of one step more begins with the step. -/
theorem run_succ_of_next {s u : State} (h : step s = .next u) (k : Nat) :
    Host.Core.run Sys2Proof.core (k + 1) s = Host.Core.run Sys2Proof.core k u :=
  coreRun_succ_of_next Sys2Proof.core h k

/-- A run of no step. -/
theorem run_zero (s : State) : Host.Core.run Sys2Proof.core 0 s = .next s := rfl

end Sys2Proof.Machine
end

