-- ==== Sys2Proof/Laws/Encoding.lean ====
section
/-! SUPPORT. Bytes and words, the fields of a packed word, and the rows of a legal ISA table. -/

namespace Sys2Proof

/-! ## Lengths (R90, R113) -/

theorem Format.bits_eq (f : Format) : f.bits = 8 * f.bytes := by cases f <;> rfl

@[simp] theorem IsaRow.descriptor_lenBytes (r : IsaRow) : r.descriptor.lenBytes = r.mnemonic.format.bytes := by
  simp [Descriptor.lenBytes, IsaRow.descriptor, Format.bits_eq]

theorem Instr.len_cases (i : Instr) : i.len = 3 ∨ i.len = 4 := by
  cases i <;> simp [Instr.len, Instr.mnemonic, Mnemonic.format, Format.bytes]

@[simp] theorem Instr.ofOperands_mnemonic (m : Mnemonic) (o : OperandFields) : (Instr.ofOperands m o).mnemonic = m := by
  cases m <;> rfl

/-! ## Bytes and words -/

@[simp] theorem leBytes_length (n : Nat) (w : Word32) : (leBytes n w).length = n := by
  induction n generalizing w with
  | zero => rfl
  | succ n ih => simp [leBytes, ih]

/-- Bit `i` of a little-endian value is bit `i % 8` of byte `i / 8`. -/
theorem leWord_getLsbD (bs : List Byte) (i : Nat) (hi : i < 32) :
    (leWord bs).getLsbD i = (bs.getD (i / 8) 0).getLsbD (i % 8) := by
  induction bs generalizing i with
  | nil => simp [leWord]
  | cons b bs ih =>
    simp only [leWord, BitVec.getLsbD_or, BitVec.getLsbD_shiftLeft, BitVec.getLsbD_setWidth]
    by_cases h8 : i < 8
    · have h1 : i / 8 = 0 := by omega
      have h2 : i % 8 = i := by omega
      simp [h1, h2, h8, hi]
    · have hd : i / 8 = (i - 8) / 8 + 1 := by omega
      have hm : i % 8 = (i - 8) % 8 := by omega
      rw [hd, hm, ih (i - 8) (by omega)]
      have : b.getLsbD i = false := BitVec.getLsbD_of_ge _ _ (by omega)
      simp [this, h8, hi]

/-- Byte `k` of a word (R9). -/
theorem leBytes_getD (n k : Nat) (w : Word32) (h : k < n) : (leBytes n w).getD k 0 = w.extractLsb' (8 * k) 8 := by
  induction n generalizing k w with
  | zero => omega
  | succ n ih =>
    cases k with
    | zero =>
      simp only [leBytes, List.getD_cons_zero]
      ext i hi
      simp [BitVec.getLsbD_eq_getElem, show i < 32 by omega]
    | succ k =>
      simp only [leBytes, List.getD_cons_succ]
      rw [ih k _ (by omega)]
      ext i hi
      simp only [BitVec.getElem_extractLsb', BitVec.getLsbD_ushiftRight]
      congr 1
      omega

/-- The little-endian value of the `n` lowest bytes of a word whose other bits are 0 is the word. -/
theorem leWord_leBytes (n : Nat) (w : Word32) (hw : ∀ i, 8 * n ≤ i → w.getLsbD i = false) : leWord (leBytes n w) = w := by
  apply BitVec.eq_of_getLsbD_eq
  intro i hi
  rw [leWord_getLsbD _ _ hi]
  by_cases h : i / 8 < n
  · rw [leBytes_getD _ _ _ h, BitVec.getLsbD_extractLsb']
    have : i % 8 < 8 := by omega
    simp only [this, decide_true, Bool.true_and]
    congr 1
    omega
  · rw [hw i (by omega), List.getD_eq_default _ _ (by simp; omega)]
    simp

/-! ## The selector byte (R91) -/

@[simp] theorem selectorOf_opcode (o : BitVec 5) (f : BitVec 3) : (selectorOf o f).extractLsb' 3 5 = o := by
  ext i hi
  simp only [selectorOf, BitVec.getElem_extractLsb', BitVec.getLsbD_or, BitVec.getLsbD_shiftLeft,
    BitVec.getLsbD_setWidth]
  interval_cases i <;> simp

@[simp] theorem selectorOf_funct3 (o : BitVec 5) (f : BitVec 3) : (selectorOf o f).extractLsb' 0 3 = f := by
  ext i hi
  simp only [selectorOf, BitVec.getElem_extractLsb', BitVec.getLsbD_or, BitVec.getLsbD_shiftLeft,
    BitVec.getLsbD_setWidth]
  interval_cases i <;> simp

/-- A selector byte is its opcode and funct3 put together again. -/
theorem selectorOf_extract (b : Byte) : selectorOf (b.extractLsb' 3 5) (b.extractLsb' 0 3) = b := by
  ext i hi
  simp only [selectorOf, BitVec.getElem_or, BitVec.getElem_shiftLeft, BitVec.getElem_setWidth,
    BitVec.getLsbD_extractLsb']
  interval_cases i <;> simp

/-- Two rows have the same selector byte exactly when they have the same opcode and funct3. -/
theorem IsaRow.sel_eq_iff (r q : IsaRow) : r.sel = q.sel ↔ r.opcode = q.opcode ∧ r.funct3 = q.funct3 := by
  constructor
  · intro h
    have h1 := congrArg (fun b : Byte => b.extractLsb' 3 5) h
    have h2 := congrArg (fun b : Byte => b.extractLsb' 0 3) h
    simp only [IsaRow.sel, selectorOf_opcode, selectorOf_funct3] at h1 h2
    exact ⟨h1, h2⟩
  · rintro ⟨h1, h2⟩
    simp [IsaRow.sel, h1, h2]

/-! ## The fields of a packed word (R116, R127) -/

/-- byte0 of a packed word is the selector byte, whatever the format. -/
theorem packWord_sel (f : Format) (sel : Byte) (f4 : BitVec 4) (o : OperandFields) :
    (packWord f sel f4 o).extractLsb' 0 8 = sel := by
  ext i hi
  cases f <;>
    simp only [packWord, placeField, placeReg, BitVec.getElem_extractLsb', BitVec.getLsbD_or,
      BitVec.getLsbD_shiftLeft, BitVec.getLsbD_setWidth] <;>
    interval_cases i <;> simp

/-- The low nibble of byte1 is funct4 in the formats that have one. -/
theorem packWord_funct4 (f : Format) (sel : Byte) (f4 : BitVec 4) (o : OperandFields) (h : f.usesFunct4 = true) :
    (packWord f sel f4 o).extractLsb' 8 4 = f4 := by
  ext i hi
  cases f <;> first | (cases h; done) | skip
  all_goals
    simp only [packWord, placeField, placeReg, BitVec.getElem_extractLsb', BitVec.getLsbD_or,
      BitVec.getLsbD_shiftLeft, BitVec.getLsbD_setWidth]
    interval_cases i <;> simp

/-- A packed word has no bit at or above its format's length. -/
theorem packWord_high (f : Format) (sel : Byte) (f4 : BitVec 4) (o : OperandFields) (i : Nat) (hi : f.bits ≤ i) :
    (packWord f sel f4 o).getLsbD i = false := by
  by_cases h32 : 32 ≤ i
  · exact BitVec.getLsbD_of_ge _ _ h32
  · cases f <;> first | (simp [Format.bits] at hi; omega) | skip
    simp only [Format.bits] at hi
    simp only [packWord, placeField, placeReg, BitVec.getLsbD_or, BitVec.getLsbD_shiftLeft, BitVec.getLsbD_setWidth]
    have : i < 32 := by omega
    interval_cases i <;> simp

/-- The operands that the decoder reads from a packed word: those packed, cut to the format's fields. -/
theorem decodeFields_packWord (sel : Byte) (f4 : BitVec 4) (o : OperandFields) (d : Descriptor) :
    (decodeFields (packWord d.format sel f4 o) d).operands =
      match d.format with
      | .r => { rd := o.rd, rs1 := o.rs1, rs2 := o.rs2 }
      | .i | .jReg => { rd := o.rd, rs1 := o.rs1, imm := (o.imm.setWidth 16).setWidth 20 }
      | .u => { rd := o.rd, imm := (o.imm.setWidth 16).setWidth 20 }
      | .s => { rs1 := o.rs1, rs2 := o.rs2, imm := (o.imm.setWidth 16).setWidth 20 }
      | .jImm => { rd := o.rd, imm := o.imm }
      | .shiftImm => { rd := o.rd, rs1 := o.rs1, imm := (o.imm.extractLsb' 0 5).setWidth 20 }
      | .noOperand => {} := by
  have hReg : ∀ (w : Word32) (lo : Nat) (r : Reg), w.extractLsb' lo 4 = BitVec.ofFin r → regField lo w = r := by
    intro w lo r h
    simp only [regField, h]
  cases hf : d.format <;>
    simp only [decodeFields, hf, DecodedInstruction.operands, OperandFields.mk.injEq, true_and, and_true] <;>
    refine ?_
  all_goals
    repeat' constructor
  all_goals first
    | (apply hReg
       ext i hi
       simp only [packWord, placeField, placeReg, BitVec.getElem_extractLsb', BitVec.getLsbD_or,
         BitVec.getLsbD_shiftLeft, BitVec.getLsbD_setWidth]
       interval_cases i <;> simp)
    | (ext i hi
       simp only [packWord, placeField, placeReg, BitVec.getElem_setWidth, BitVec.getLsbD_extractLsb',
         BitVec.getLsbD_or, BitVec.getLsbD_shiftLeft, BitVec.getLsbD_setWidth, BitVec.getElem_or,
         BitVec.getElem_shiftLeft]
       interval_cases i <;> simp)

/-! ## The rows of a legal table (R104, R106, R107) -/

theorem Mnemonic.mem_all (m : Mnemonic) : m ∈ Mnemonic.all := by cases m <;> decide

/-- A legal table has the row of every mnemonic. -/
theorem IsaTable.row_mem {t : IsaTable} (h : IsaTable.complete t = true) (m : Mnemonic) :
    IsaTable.row t m ∈ t ∧ (IsaTable.row t m).mnemonic = m := by
  simp only [IsaTable.complete, List.all_eq_true] at h
  have hm := h m (Mnemonic.mem_all m)
  have hl : (t.filter fun r => r.mnemonic == m).length = 1 := by simpa using hm
  obtain ⟨r, hr⟩ := List.length_eq_one_iff.mp hl
  have hmem : r ∈ t.filter fun r => r.mnemonic == m := by rw [hr]; exact List.mem_singleton_self r
  rw [List.mem_filter] at hmem
  cases hfind : t.find? fun r => r.mnemonic == m with
  | none =>
    rw [List.find?_eq_none] at hfind
    exact absurd hmem.2 (hfind r hmem.1)
  | some q =>
    have h1 := List.mem_of_find?_eq_some hfind
    have h2 := List.find?_some hfind
    simp only [IsaTable.row, hfind, Option.getD_some]
    exact ⟨h1, by simpa using h2⟩

/-- Two rows of a legal table with the same three keys are one row (R106 (a)). -/
theorem IsaTable.eq_of_keys {t : IsaTable} (h : IsaTable.unambiguous t = true) {r q : IsaRow} (hr : r ∈ t) (hq : q ∈ t)
    (h1 : r.opcode = q.opcode) (h2 : r.funct3 = q.funct3) (h3 : r.funct4 = q.funct4) : r = q := by
  simp only [IsaTable.unambiguous, decide_eq_true_eq] at h
  by_contra hne
  induction t with
  | nil => cases hr
  | cons x t ih =>
    rw [List.pairwise_cons] at h
    rcases List.mem_cons.mp hr with rfl | hr' <;> rcases List.mem_cons.mp hq with rfl | hq'
    · exact hne rfl
    · exact h.1 q hq' ⟨h1, h2, h3⟩
    · exact h.1 r hr' ⟨h1.symm, h2.symm, h3.symm⟩
    · exact ih hr' hq' h.2

/-- Two rows of a legal table with one selector byte both have a funct4 or both have none (R106 (b)). -/
theorem IsaTable.funct4_of_sel {t : IsaTable} (h : IsaTable.selectorsApart t = true) {r q : IsaRow} (hr : r ∈ t)
    (hq : q ∈ t) (hs : r.sel = q.sel) : r.funct4.isSome = q.funct4.isSome := by
  simp only [IsaTable.selectorsApart, List.all_eq_true] at h
  have := h r hr q hq
  simpa [hs] using this

/-- A row of a legal table has a funct4 exactly when its format uses one (R106 (c)). -/
theorem IsaTable.funct4_iff_format {t : IsaTable} (h : IsaTable.funct4AsFormat t = true) {r : IsaRow} (hr : r ∈ t) :
    r.funct4.isSome = r.mnemonic.format.usesFunct4 := by
  simp only [IsaTable.funct4AsFormat, List.all_eq_true] at h
  simpa using h r hr

/-- No row of a legal table has the selector 0x00 (R107). -/
theorem IsaTable.sel_ne_zero {t : IsaTable} (h : IsaTable.noZeroSelector t = true) {r : IsaRow} (hr : r ∈ t) :
    r.sel ≠ 0 := by
  simp only [IsaTable.noZeroSelector, List.all_eq_true] at h
  simpa using h r hr

/-- The five checks of a legal table. -/
theorem IsaTable.valid_iff (t : IsaTable) :
    IsaTable.valid t = true ↔ IsaTable.complete t = true ∧ IsaTable.unambiguous t = true ∧
      IsaTable.selectorsApart t = true ∧ IsaTable.funct4AsFormat t = true ∧ IsaTable.noZeroSelector t = true := by
  simp [IsaTable.valid, and_assoc]

end Sys2Proof
end

