-- ==== Sys2Proof/Laws/PerInstr.lean ====
section
/-! SUPPORT. Facts about every instruction as syntax, one lemma per constructor. -/

namespace Sys2Proof.Laws.OperandsRoundTrip

/-- An instruction is its mnemonic and its operands: the decoder's record of them stands for it again (spec
30_encoding.md R103, R122). -/
def Statement (i : Instr) : Prop := Instr.ofOperands i.mnemonic i.operands = i

theorem add (rd rs1 rs2 : Reg) : Statement (.add rd rs1 rs2) := rfl

theorem sub (rd rs1 rs2 : Reg) : Statement (.sub rd rs1 rs2) := rfl

theorem mul (rd rs1 rs2 : Reg) : Statement (.mul rd rs1 rs2) := rfl

theorem div (rd rs1 rs2 : Reg) : Statement (.div rd rs1 rs2) := rfl

theorem and (rd rs1 rs2 : Reg) : Statement (.and rd rs1 rs2) := rfl

theorem or (rd rs1 rs2 : Reg) : Statement (.or rd rs1 rs2) := rfl

theorem xor (rd rs1 rs2 : Reg) : Statement (.xor rd rs1 rs2) := rfl

theorem sll (rd rs1 rs2 : Reg) : Statement (.sll rd rs1 rs2) := rfl

theorem srl (rd rs1 rs2 : Reg) : Statement (.srl rd rs1 rs2) := rfl

theorem addi (rd rs1 : Reg) (imm : Word16) : Statement (.addi rd rs1 imm) := by
  simp [Statement, Instr.mnemonic, Instr.operands, Instr.ofOperands]

theorem subi (rd rs1 : Reg) (imm : Word16) : Statement (.subi rd rs1 imm) := by
  simp [Statement, Instr.mnemonic, Instr.operands, Instr.ofOperands]

theorem muli (rd rs1 : Reg) (imm : Word16) : Statement (.muli rd rs1 imm) := by
  simp [Statement, Instr.mnemonic, Instr.operands, Instr.ofOperands]

theorem divi (rd rs1 : Reg) (imm : Word16) : Statement (.divi rd rs1 imm) := by
  simp [Statement, Instr.mnemonic, Instr.operands, Instr.ofOperands]

theorem andi (rd rs1 : Reg) (imm : Word16) : Statement (.andi rd rs1 imm) := by
  simp [Statement, Instr.mnemonic, Instr.operands, Instr.ofOperands]

theorem ori (rd rs1 : Reg) (imm : Word16) : Statement (.ori rd rs1 imm) := by
  simp [Statement, Instr.mnemonic, Instr.operands, Instr.ofOperands]

theorem xori (rd rs1 : Reg) (imm : Word16) : Statement (.xori rd rs1 imm) := by
  simp [Statement, Instr.mnemonic, Instr.operands, Instr.ofOperands]

theorem slli (rd rs1 : Reg) (shamt : Byte) : Statement (.slli rd rs1 shamt) := by
  simp [Statement, Instr.mnemonic, Instr.operands, Instr.ofOperands]

theorem srli (rd rs1 : Reg) (shamt : Byte) : Statement (.srli rd rs1 shamt) := by
  simp [Statement, Instr.mnemonic, Instr.operands, Instr.ofOperands]

theorem lui (rd : Reg) (imm : Word16) : Statement (.lui rd imm) := by
  simp [Statement, Instr.mnemonic, Instr.operands, Instr.ofOperands]

theorem auipc (rd : Reg) (imm : Word16) : Statement (.auipc rd imm) := by
  simp [Statement, Instr.mnemonic, Instr.operands, Instr.ofOperands]

theorem lb (rd rs1 : Reg) (imm : Word16) : Statement (.lb rd rs1 imm) := by
  simp [Statement, Instr.mnemonic, Instr.operands, Instr.ofOperands]

theorem lh (rd rs1 : Reg) (imm : Word16) : Statement (.lh rd rs1 imm) := by
  simp [Statement, Instr.mnemonic, Instr.operands, Instr.ofOperands]

theorem lw (rd rs1 : Reg) (imm : Word16) : Statement (.lw rd rs1 imm) := by
  simp [Statement, Instr.mnemonic, Instr.operands, Instr.ofOperands]

theorem sb (rs1 rs2 : Reg) (imm : Word16) : Statement (.sb rs1 rs2 imm) := by
  simp [Statement, Instr.mnemonic, Instr.operands, Instr.ofOperands]

theorem sh (rs1 rs2 : Reg) (imm : Word16) : Statement (.sh rs1 rs2 imm) := by
  simp [Statement, Instr.mnemonic, Instr.operands, Instr.ofOperands]

theorem sw (rs1 rs2 : Reg) (imm : Word16) : Statement (.sw rs1 rs2 imm) := by
  simp [Statement, Instr.mnemonic, Instr.operands, Instr.ofOperands]

theorem beq (rs1 rs2 : Reg) (imm : Word16) : Statement (.beq rs1 rs2 imm) := by
  simp [Statement, Instr.mnemonic, Instr.operands, Instr.ofOperands]

theorem bne (rs1 rs2 : Reg) (imm : Word16) : Statement (.bne rs1 rs2 imm) := by
  simp [Statement, Instr.mnemonic, Instr.operands, Instr.ofOperands]

theorem blt (rs1 rs2 : Reg) (imm : Word16) : Statement (.blt rs1 rs2 imm) := by
  simp [Statement, Instr.mnemonic, Instr.operands, Instr.ofOperands]

theorem bgt (rs1 rs2 : Reg) (imm : Word16) : Statement (.bgt rs1 rs2 imm) := by
  simp [Statement, Instr.mnemonic, Instr.operands, Instr.ofOperands]

theorem ble (rs1 rs2 : Reg) (imm : Word16) : Statement (.ble rs1 rs2 imm) := by
  simp [Statement, Instr.mnemonic, Instr.operands, Instr.ofOperands]

theorem bge (rs1 rs2 : Reg) (imm : Word16) : Statement (.bge rs1 rs2 imm) := by
  simp [Statement, Instr.mnemonic, Instr.operands, Instr.ofOperands]

theorem jal (rd : Reg) (imm : BitVec 20) : Statement (.jal rd imm) := rfl

theorem jalr (rd rs1 : Reg) (imm : Word16) : Statement (.jalr rd rs1 imm) := by
  simp [Statement, Instr.mnemonic, Instr.operands, Instr.ofOperands]

theorem halt : Statement .halt := rfl

end Sys2Proof.Laws.OperandsRoundTrip
end

