-- ==== Sys2Proof/Tests/Slice0.lean ====
section
/-! SUPPORT. The model's own tests. Every byte sequence and every expected value is taken from spec/95_test_vectors.md or,
where it has none, written out by hand from the layouts of 30_encoding.md R92 to R99 with the reference numbers of R105. -/

namespace Sys2Proof.Tests

open Sys2Proof.Machine

/-! ## Decoding: one word written out for every instruction -/

/-- vector W3. -/
theorem test_decode_add : decode referenceTable [0x08, 0x00, 0x21] = .ok (.add 0 1 2, []) := by decide

/-- 3.1. -/
theorem test_decode_sub : decode referenceTable [0x08, 0x11, 0x32] = .ok (.sub 1 2 3, []) := by decide

/-- 3.1. -/
theorem test_decode_mul : decode referenceTable [0x08, 0x12, 0x32] = .ok (.mul 1 2 3, []) := by decide

/-- 3.1. -/
theorem test_decode_div : decode referenceTable [0x08, 0x33, 0x32] = .ok (.div 3 2 3, []) := by decide

/-- 3.1. -/
theorem test_decode_and : decode referenceTable [0x08, 0x14, 0x32] = .ok (.and 1 2 3, []) := by decide

/-- 3.1. -/
theorem test_decode_or : decode referenceTable [0x08, 0x15, 0x32] = .ok (.or 1 2 3, []) := by decide

/-- 3.1. -/
theorem test_decode_xor : decode referenceTable [0x08, 0x16, 0x11] = .ok (.xor 1 1 1, []) := by decide

/-- 3.1. -/
theorem test_decode_sll : decode referenceTable [0x08, 0x17, 0x32] = .ok (.sll 1 2 3, []) := by decide

/-- section 2. -/
theorem test_decode_srl : decode referenceTable [0x08, 0x58, 0xA7] = .ok (.srl 5 7 10, []) := by decide

/-- W8. -/
theorem test_decode_addi : decode referenceTable [0x10, 0x21, 0x34, 0x12] = .ok (.addi 1 2 0x1234, []) := by decide

/-- 3.2. -/
theorem test_decode_subi : decode referenceTable [0x11, 0x11, 0x01, 0x00] = .ok (.subi 1 1 1, []) := by decide

/-- 3.2. -/
theorem test_decode_muli : decode referenceTable [0x12, 0x21, 0x00, 0x01] = .ok (.muli 1 2 0x0100, []) := by decide

/-- 3.2. -/
theorem test_decode_divi : decode referenceTable [0x13, 0x21, 0x00, 0x02] = .ok (.divi 1 2 0x0200, []) := by decide

/-- 3.2. -/
theorem test_decode_andi : decode referenceTable [0x14, 0x21, 0x00, 0xFF] = .ok (.andi 1 2 0xFF00, []) := by decide

/-- 3.2. -/
theorem test_decode_ori : decode referenceTable [0x15, 0x01, 0xA5, 0x01] = .ok (.ori 1 0 0x01A5, []) := by decide

/-- 3.2. -/
theorem test_decode_xori : decode referenceTable [0x16, 0x21, 0xFF, 0x00] = .ok (.xori 1 2 0x00FF, []) := by decide

/-- 3.3. -/
theorem test_decode_slli : decode referenceTable [0x18, 0x10, 0x03, 0x02] = .ok (.slli 1 2 3, []) := by decide

/-- section 2. -/
theorem test_decode_srli : decode referenceTable [0x18, 0x31, 0xE7, 0xF1] = .ok (.srli 3 1 0xE7, []) := by decide

/-- 3.4. -/
theorem test_decode_lui : decode referenceTable [0x20, 0x10, 0x34, 0x12] = .ok (.lui 1 0x1234, []) := by decide

/-- section 2. -/
theorem test_decode_auipc : decode referenceTable [0x20, 0x31, 0xCD, 0xAB] = .ok (.auipc 3 0xABCD, []) := by decide

/-- 3.5. -/
theorem test_decode_lb : decode referenceTable [0x28, 0x14, 0x01, 0x01] = .ok (.lb 4 1 0x0101, []) := by decide

/-- 3.5. -/
theorem test_decode_lh : decode referenceTable [0x29, 0x12, 0xFF, 0x0F] = .ok (.lh 2 1 0x0FFF, []) := by decide

/-- section 2. -/
theorem test_decode_lw : decode referenceTable [0x2A, 0xF5, 0xFF, 0xFF] = .ok (.lw 5 15 0xFFFF, []) := by decide

/-- 3.5. -/
theorem test_decode_sb : decode referenceTable [0x30, 0x41, 0xC0, 0x0F] = .ok (.sb 1 4 0x0FC0, []) := by decide

/-- 3.5. -/
theorem test_decode_sh : decode referenceTable [0x31, 0x21, 0x10, 0x00] = .ok (.sh 1 2 0x0010, []) := by decide

/-- section 2. -/
theorem test_decode_sw : decode referenceTable [0x32, 0x21, 0x00, 0x01] = .ok (.sw 1 2 0x0100, []) := by decide

/-- 3.6. -/
theorem test_decode_beq : decode referenceTable [0x38, 0x21, 0x05, 0x00] = .ok (.beq 1 2 5, []) := by decide

/-- section 2. -/
theorem test_decode_bne : decode referenceTable [0x39, 0x01, 0xF4, 0xFF] = .ok (.bne 1 0 0xFFF4, []) := by decide

/-- 3.6. -/
theorem test_decode_blt : decode referenceTable [0x3A, 0x21, 0x08, 0x00] = .ok (.blt 1 2 8, []) := by decide

/-- 3.6. -/
theorem test_decode_bgt : decode referenceTable [0x3B, 0x21, 0x08, 0x00] = .ok (.bgt 1 2 8, []) := by decide

/-- 3.6. -/
theorem test_decode_ble : decode referenceTable [0x3C, 0x21, 0x08, 0x00] = .ok (.ble 1 2 8, []) := by decide

/-- 3.6. -/
theorem test_decode_bge : decode referenceTable [0x3D, 0x21, 0x08, 0x00] = .ok (.bge 1 2 8, []) := by decide

/-- section 2. -/
theorem test_decode_jal : decode referenceTable [0x40, 0x5A, 0x34, 0x12] = .ok (.jal 10 0x12345, []) := by decide

/-- section 2. -/
theorem test_decode_jalr : decode referenceTable [0x48, 0x56, 0xFE, 0xFF] = .ok (.jalr 6 5 0xFFFE, []) := by decide

/-- section 2. -/
theorem test_decode_halt : decode referenceTable [0xFF, 0x12, 0x34, 0x56] = .ok (.halt, []) := by decide

/-- Section 2, classification failures, and the low nibble of byte1 alone selecting. -/
theorem test_decode_refuses :
    decode referenceTable [0x00, 0, 0, 0] = .error .unknownInstruction ∧
    decode referenceTable [0x01, 0, 0, 0] = .error .unknownInstruction ∧
    decode referenceTable [0x08, 0x09, 0x00] = .error .unknownInstruction ∧
    decode referenceTable [0x18, 0x02, 0, 0] = .error .unknownInstruction ∧
    decode referenceTable [0x20, 0x0F, 0, 0] = .error .unknownInstruction ∧
    decode referenceTable [0x08, 0xF0, 0x21] = .ok (.add 15 1 2, []) := by decide

/-- Bytes that end too early (R113), and bytes after the instruction, which are left over. -/
theorem test_decode_ends :
    decode referenceTable [] = .error .truncated ∧ decode referenceTable [0x08] = .error .truncated ∧
    decode referenceTable [0x10, 0x21, 0x34] = .error .truncated ∧
    decode referenceTable [0x08, 0x00, 0x21, 0xAA] = .ok (.add 0 1 2, [0xAA]) := by decide

/-- W1: the encoder's bytes, the last with its shift amount masked to 5 bits. -/
theorem test_encode :
    encode referenceTable (.add 0 1 2) = [0x08, 0x00, 0x21] ∧
    encode referenceTable (.addi 1 2 0x1234) = [0x10, 0x21, 0x34, 0x12] ∧
    encode referenceTable (.auipc 3 0xABCD) = [0x20, 0x31, 0xCD, 0xAB] ∧
    encode referenceTable (.sw 1 2 0x0100) = [0x32, 0x21, 0x00, 0x01] ∧
    encode referenceTable (.jal 10 0x12345) = [0x40, 0x5A, 0x34, 0x12] ∧
    encode referenceTable (.jalr 6 5 0xFFFE) = [0x48, 0x56, 0xFE, 0xFF] ∧
    encode referenceTable (.slli 2 1 0x20) = [0x18, 0x20, 0x00, 0x01] := by decide

/-- opcode_table.json's numbering: the bits of the first byte are the least significant ones. -/
theorem test_decodeTableWord :
    decodeTableWord 24 0xA75808 = some (.srl 5 7 10) ∧ decodeTableWord 32 0xABCD3120 = some (.auipc 3 0xABCD) ∧
    decodeTableWord 8 0xFF = some .halt ∧ decodeTableWord 32 0 = none := by decide

/-! ## Well-formedness: one ill-formed term for each check -/

/-- A shift amount of 32 does not fit the encoder's five bits; 31 does. -/
theorem test_wf_refuses_shamt :
    Instr.wf (.slli 1 2 32) = false ∧ Instr.wf (.srli 1 2 0xFF) = false ∧ Instr.wf (.slli 1 2 31) = true ∧
    Instr.wf (.srli 1 2 0) = true := by decide

/-- R104: a table that lacks a row, and one that has a row twice. -/
theorem test_wf_refuses_incomplete :
    IsaTable.complete (referenceTable.drop 1) = false ∧
    IsaTable.complete (funct4Row .add 1 9 :: referenceTable) = false := by decide

/-- R106 (a): two rows with one (opcode, funct3), and two with one triple. -/
theorem test_wf_refuses_ambiguous :
    IsaTable.unambiguous [plainRow .lb 5 0, plainRow .lh 5 0] = false ∧
    IsaTable.unambiguous [funct4Row .add 1 0, funct4Row .sub 1 0] = false := by decide

/-- R106 (b): one selector byte with a funct4 and without one. -/
theorem test_wf_refuses_mixed_selector :
    IsaTable.selectorsApart [funct4Row .add 1 0, plainRow .lb 1 0] = false := by decide

/-- R106 (c): an R-format row with no funct4, and an I-format row with one. -/
theorem test_wf_refuses_funct4 :
    IsaTable.funct4AsFormat [plainRow .add 1 0] = false ∧ IsaTable.funct4AsFormat [funct4Row .addi 2 0] = false := by
  decide

/-- R107: a row with the reserved selector. -/
theorem test_wf_refuses_zero_selector : IsaTable.noZeroSelector [plainRow .halt 0 0] = false := by decide

/-! ## One step from a small state -/

/-- The parameters of 95_test_vectors.md: every default of R8, a region of `romLen` bytes and a ceiling above any step
count here. -/
def config (romLen : Nat) (pw : PairWrap) : Config where
  isa := referenceTable
  memSize := 4096
  addrMask := 0x0FFF
  progBase := 0
  romLen := romLen
  maxSteps := 100
  pairWrap := pw

/-- A Running state with these registers, memory bytes and pc; everything else 0. -/
def small (pc : Word16) (regs : List (Reg × Byte)) (mem : List Host.Cell) (romLen : Nat := 0x210)
    (pw : PairWrap := .wrap) : State :=
  let base := { State.reset with pc := pc, cfg := config romLen pw }
  let withRegs := regs.foldl (fun s c => s.writeReg c.1 c.2) base
  withRegs.setMem (mem.foldl (fun m c => m.wr8 c.1 c.2) [])

/-- A state with these bytes in memory from its pc on. -/
def withCode (s : State) (bytes : List Byte) : State := s.setMem (s.mem.load s.pc.toNat bytes)

/-- What `f` sees of the state after one step. -/
def after {α : Type} (s : State) (bytes : List Byte) (f : State → α) : Option α :=
  match step (withCode s bytes) with
  | .next t => some (f t)
  | .fault _ => none
  | .refused _ => none

/-- A register and the pc. -/
def regPc (r : Reg) (t : State) : Byte × Word16 := (t.readReg r, t.pc)

/-- A register, the pc and the recorded division errors. -/
def regDiv (r : Reg) (t : State) : Byte × Word16 × List Word16 := (t.readReg r, t.pc, t.divErrors)

/-- Memory bytes and the pc. -/
def memPc (as : List Nat) (t : State) : List Byte × Word16 := (as.map t.mem.rd8, t.pc)

/-- How the run stands: run, pc, steps, lastPC, lastWord. -/
def status (t : State) : RunState × Word16 × Nat × Word16 × Word32 := (t.run, t.pc, t.steps, t.lastPC, t.lastWord)

/-- W3. -/
theorem test_add_wraps :
    after (small 0 [(1, 0xFF), (2, 0x02)] []) [0x08, 0x00, 0x21] (regPc 0) = some (0x01, 3) := by decide

/-- 3.1: rd, rs1 and rs2 the same. -/
theorem test_add_one_register :
    after (small 0 [(1, 0x81)] []) [0x08, 0x10, 0x11] (regPc 1) = some (0x02, 3) := by decide

/-- 3.1. -/
theorem test_sub_borrows :
    after (small 0 [(2, 0x00), (3, 0x01)] []) [0x08, 0x11, 0x32] (regPc 1) = some (0xFF, 3) := by decide

/-- 3.1. -/
theorem test_mul_wraps :
    after (small 0 [(2, 0xFF), (3, 0xFF)] []) [0x08, 0x12, 0x32] (regPc 1) = some (0x01, 3) := by decide

/-- 3.1. -/
theorem test_div_unsigned :
    after (small 0 [(2, 0xFF), (3, 0x02)] []) [0x08, 0x13, 0x32] (regPc 1) = some (0x7F, 3) := by decide

/-- W4. -/
theorem test_div_by_zero :
    after (small 0 [(0, 0x5A), (1, 0x07)] []) [0x08, 0x03, 0x21] (regDiv 0) = some (0x5A, 3, [0]) := by decide

/-- 3.1. -/
theorem test_and :
    after (small 0 [(2, 0xF0), (3, 0x3C)] []) [0x08, 0x14, 0x32] (regPc 1) = some (0x30, 3) := by decide

/-- 3.1. -/
theorem test_or :
    after (small 0 [(2, 0xF0), (3, 0x0F)] []) [0x08, 0x15, 0x32] (regPc 1) = some (0xFF, 3) := by decide

/-- 3.1. -/
theorem test_xor_self :
    after (small 0 [(1, 0x5A)] []) [0x08, 0x16, 0x11] (regPc 1) = some (0x00, 3) := by decide

/-- 3.1. -/
theorem test_sll :
    after (small 0 [(2, 0x81), (3, 0x07)] []) [0x08, 0x17, 0x32] (regPc 1) = some (0x80, 3) := by decide

/-- 3.1. -/
theorem test_sll_by_eight :
    after (small 0 [(2, 0x81), (3, 0x08)] []) [0x08, 0x17, 0x32] (regPc 1) = some (0x00, 3) := by decide

/-- 3.1. -/
theorem test_srl :
    after (small 0 [(2, 0x80), (3, 0x07)] []) [0x08, 0x18, 0x32] (regPc 1) = some (0x01, 3) := by decide

/-- 3.1. -/
theorem test_srl_by_eight :
    after (small 0 [(2, 0xFF), (3, 0x08)] []) [0x08, 0x18, 0x32] (regPc 1) = some (0x00, 3) := by decide

/-- 3.2. -/
theorem test_addi_low_byte :
    after (small 0 [] []) [0x10, 0x01, 0x05, 0x01] (regPc 1) = some (0x05, 4) := by decide

/-- 3.2. -/
theorem test_addi_minus_one :
    after (small 0 [(2, 0x05)] []) [0x10, 0x21, 0xFF, 0xFF] (regPc 1) = some (0x04, 4) := by decide

/-- 3.2. -/
theorem test_subi_borrows :
    after (small 0 [] []) [0x11, 0x11, 0x01, 0x00] (regPc 1) = some (0xFF, 4) := by decide

/-- 3.2. -/
theorem test_muli_low_byte :
    after (small 0 [(2, 0x07)] []) [0x12, 0x21, 0x00, 0x01] (regPc 1) = some (0x00, 4) := by decide

/-- 3.2. -/
theorem test_divi_masks_first :
    after (small 0 [(1, 0x44), (2, 0x09)] []) [0x13, 0x21, 0x00, 0x02] (regDiv 1) = some (0x44, 4, [0]) := by decide

/-- 3.2. -/
theorem test_divi :
    after (small 0 [(2, 0xFF)] []) [0x13, 0x21, 0xFF, 0x00] (regPc 1) = some (0x01, 4) := by decide

/-- 3.2. -/
theorem test_andi_low_byte :
    after (small 0 [(2, 0xFF)] []) [0x14, 0x21, 0x00, 0xFF] (regPc 1) = some (0x00, 4) := by decide

/-- 3.2. -/
theorem test_ori_low_byte :
    after (small 0 [] []) [0x15, 0x01, 0xA5, 0x01] (regPc 1) = some (0xA5, 4) := by decide

/-- 3.2. -/
theorem test_xori_complements :
    after (small 0 [(2, 0x5A)] []) [0x16, 0x21, 0xFF, 0x00] (regPc 1) = some (0xA5, 4) := by decide

/-- 3.3. -/
theorem test_slli :
    after (small 0 [(2, 0x21)] []) [0x18, 0x10, 0x03, 0x02] (regPc 1) = some (0x08, 4) := by decide

/-- 3.3: 0x20 is a shift by 0. -/
theorem test_slli_masks_shamt :
    after (small 0 [(1, 0x81)] []) [0x18, 0x20, 0x20, 0x01] (regPc 2) = some (0x81, 4) := by decide

/-- 3.3. -/
theorem test_srli :
    after (small 0 [(2, 0x80)] []) [0x18, 0x11, 0x03, 0x02] (regPc 1) = some (0x10, 4) := by decide

/-- 3.3: shift amount byte 0xE7, byte3 0xF1. -/
theorem test_srli_dont_care_bits :
    after (small 0 [(1, 0x81)] []) [0x18, 0x31, 0xE7, 0xF1] (regPc 3) = some (0x01, 4) := by decide

/-- 3.4. -/
theorem test_lui :
    after (small 0 [] []) [0x20, 0x10, 0x34, 0x12] (regPc 1) = some (0x12, 4) := by decide

/-- 3.4. -/
theorem test_auipc :
    after (small 4 [] []) [0x20, 0x21, 0x01, 0x00] (regPc 2) = some (0x01, 8) := by decide

/-- 3.4: (0x01 + 0xFF) mod 256. -/
theorem test_auipc_carries_out :
    after (small 0x01F8 [] []) [0x20, 0x11, 0xFF, 0x00] (regPc 1) = some (0x00, 0x01FC) := by decide

/-- 3.5. -/
theorem test_sb_wraps_into_code :
    after (small 0x20 [(1, 0x40), (4, 0xCD)] []) [0x30, 0x41, 0xC0, 0x0F] (memPc [0x000, 0x001]) =
      some ([0xCD, 0x00], 0x24) := by decide

/-- 3.5. -/
theorem test_sb_negative_offset :
    after (small 0x20 [(1, 0x10), (2, 0x99)] []) [0x30, 0x21, 0xFF, 0xFF] (memPc [0x00F, 0x010]) =
      some ([0x99, 0x00], 0x24) := by decide

/-- 3.5; the second byte wraps and is overwritten with zero. -/
theorem test_sh_zero_fill :
    after (small 0x20 [(2, 0xAB), (3, 0xCD)] [(0x000, 0x77)]) [0x31, 0x21, 0xFF, 0x0F] (memPc [0xFFF, 0x000]) =
      some ([0xAB, 0x00], 0x24) := by decide

/-- 3.5. -/
theorem test_sw_wraps :
    after (small 0x20 [(2, 0xAB), (3, 0xCD)] [(0x000, 0x77), (0x001, 0x88), (0x002, 0x99)]) [0x32, 0x21, 0xFE, 0x0F] (memPc [0xFFE, 0xFFF, 0x000, 0x001, 0x002]) =
      some ([0xAB, 0xCD, 0x00, 0x00, 0x99], 0x24) := by decide

/-- 3.5. -/
theorem test_sw_pair_of_r15 :
    after (small 0x20 [(0, 0x55), (15, 0x77)] []) [0x32, 0xF1, 0x00, 0x02] (memPc [0x200, 0x201, 0x202, 0x203]) =
      some ([0x77, 0x55, 0x00, 0x00], 0x24) := by decide

/-- 3.5. -/
theorem test_lb_old_base :
    after (small 0x20 [(1, 0x41)] [(0x141, 0x5C)]) [0x28, 0x11, 0x00, 0x01] (regPc 1) = some (0x5C, 0x24) := by decide

/-- 3.5. -/
theorem test_lh_drops_high_byte :
    after (small 0x20 [] [(0x000, 0x34), (0xFFF, 0x12)]) [0x29, 0x12, 0xFF, 0x0F] (regPc 2) =
      some (0x12, 0x24) := by decide

/-- 3.5: the address uses the old x2. -/
theorem test_lw_pair_over_base :
    after (small 0x20 [(2, 0x10)] [(0x210, 0xAA), (0x211, 0xBB)]) [0x2A, 0x21, 0x00, 0x02] (fun t => (t.readReg 1, t.readReg 2)) =
      some (0xAA, 0xBB) := by decide

/-- 3.5. -/
theorem test_lw_pair_of_r15 :
    after (small 0x20 [] [(0x200, 0x11), (0x201, 0x22), (0x202, 0x33), (0x203, 0x44)]) [0x2A, 0x1F, 0x00, 0x02] (fun t => (t.readReg 15, t.readReg 0)) =
      some (0x11, 0x22) := by decide

/-- 3.5 with PAIR_WRAP = refuse; R249. -/
theorem test_lw_refused :
    after (small 0x20 [] [(0x200, 0x11)] (pw := .refuse)) [0x2A, 0x1F, 0x00, 0x02] (fun t => (status t, t.readReg 15)) =
      some ((.refused, 0x20, 0, 0x20, 0x02001F2A), 0x00) := by decide

/-- R191, R249. -/
theorem test_sw_refused :
    after (small 0x20 [(15, 0x77)] [] (pw := .refuse)) [0x32, 0xF1, 0x00, 0x02] (fun t => (status t, t.mem.rd8 0x200)) =
      some ((.refused, 0x20, 0, 0x20, 0x0200F132), 0x00) := by decide

/-- 3.6. -/
theorem test_beq_taken :
    after (small 0x20 [(1, 3), (2, 3)] []) [0x38, 0x21, 0x05, 0x00] (fun t => t.pc) = some 0x29 := by decide

/-- 3.6. -/
theorem test_beq_wraps_below_zero :
    after (small 0x20 [] []) [0x38, 0x00, 0xD0, 0xFF] (fun t => t.pc) = some 0xFFF4 := by decide

/-- 3.6. -/
theorem test_bne_taken_back :
    after (small 0x10 [(1, 2)] []) [0x39, 0x01, 0xF4, 0xFF] (fun t => t.pc) = some 0x08 := by decide

/-- 3.6. -/
theorem test_bne_not_taken :
    after (small 0x20 [(1, 9)] []) [0x39, 0x11, 0x08, 0x00] (fun t => t.pc) = some 0x24 := by decide

/-- 3.6. -/
theorem test_blt_signed :
    after (small 0x20 [(1, 0x80), (2, 0x01)] []) [0x3A, 0x21, 0x08, 0x00] (fun t => t.pc) = some 0x2C := by decide

/-- 3.6. -/
theorem test_blt_equal :
    after (small 0x20 [(1, 5), (2, 5)] []) [0x3A, 0x21, 0x08, 0x00] (fun t => t.pc) = some 0x24 := by decide

/-- 3.6. -/
theorem test_bgt_signed :
    after (small 0x20 [(1, 0x01), (2, 0xFF)] []) [0x3B, 0x21, 0x08, 0x00] (fun t => t.pc) = some 0x2C := by decide

/-- 3.6. -/
theorem test_ble_equal :
    after (small 0x20 [(1, 5), (2, 5)] []) [0x3C, 0x21, 0x08, 0x00] (fun t => t.pc) = some 0x2C := by decide

/-- 3.6. -/
theorem test_bge_signed :
    after (small 0x20 [(1, 0x7F), (2, 0x80)] []) [0x3D, 0x21, 0x08, 0x00] (fun t => t.pc) = some 0x2C := by decide

/-- 3.6. -/
theorem test_bge_not_taken :
    after (small 0x20 [(1, 0x80), (2, 0x7F)] []) [0x3D, 0x21, 0x08, 0x00] (fun t => t.pc) = some 0x24 := by decide

/-- 3.7. -/
theorem test_jal :
    after (small 0x200 [] []) [0x40, 0xF3, 0xFF, 0x7F] (regPc 3) = some (0x02, 0x0203) := by decide

/-- 3.7. -/
theorem test_jal_to_itself :
    after (small 8 [] []) [0x40, 0xC0, 0xFF, 0xFF] (regPc 0) = some (0x00, 8) := by decide

/-- 3.7: rd is rs1. -/
theorem test_jalr_link_before_target :
    after (small 0x100 [(5, 0x20)] []) [0x48, 0x55, 0x10, 0x00] (regPc 5) = some (0x01, 0x10) := by decide

/-- 3.7. -/
theorem test_jalr_clears_bit0 :
    after (small 0 [(2, 0x80)] []) [0x48, 0x21, 0xFF, 0x01] (regPc 1) = some (0x00, 0x27E) := by decide

/-- 3.8. -/
theorem test_halt :
    after (small 0 [] []) [0xFF, 0x12, 0x34, 0x56] (status) = some (.halted, 0, 1, 0, 0x563412FF) := by decide

/-- 3.8: three bytes are the whole ROM. -/
theorem test_halt_cut_off :
    after (small 0 [] [] 3) [0xFF, 0x00, 0x00] (status) =
      some (.faulted (.pcOutOfBounds 3), 0, 0, 0, 0xFF) := by decide

/-! ## Faults and the ceiling (3.9) -/

/-- 3.9, the second step of its first row, but for the step count. -/
theorem test_region_end :
    after (small 4 [] [] 4) [] (status) = some (.faulted (.pcOutOfBounds 4), 4, 0, 4, 0) := by decide

/-- 3.9. -/
theorem test_unused_funct4 :
    after (small 0 [] [] 3) [0x08, 0x09, 0x00] (status) =
      some (.faulted .unknownInstruction, 0, 0, 0, 0x908) := by decide

/-- 3.9: a funct4 selector in the last region byte. -/
theorem test_funct4_selector_last :
    after (small 4 [] [] 5) [0x08] (status) = some (.faulted (.pcOutOfBounds 5), 4, 0, 4, 8) := by decide

/-- 3.9: an unknown selector in the last region byte. -/
theorem test_unknown_last :
    after (small 4 [] [] 5) [0x07] (status) = some (.faulted .unknownInstruction, 4, 0, 4, 7) := by decide

/-- 3.9, R120: lastWord holds the two bytes fetched. -/
theorem test_cut_off_after_byte1 :
    after (small 4 [] [] 6) [0x08, 0x00] (status) = some (.faulted (.pcOutOfBounds 6), 4, 0, 4, 8) := by decide

/-- 3.9. -/
theorem test_cut_off_after_byte2 :
    after (small 4 [] [] 7) [0x10, 0x01, 0x05] (status) =
      some (.faulted (.pcOutOfBounds 7), 4, 0, 4, 0x10) := by decide

/-- 3.9's last row: at the ceiling nothing is fetched. -/
theorem test_ceiling :
    after { small 0 [] [] with steps := 100, lastPC := 7, lastWord := 9 } [0x40, 0xC0, 0xFF, 0xFF] status =
      some (.ceilingReached, 0, 100, 7, 9) := by decide

/-- P1's image loaded at a PROG_BASE that is not the default (R62, R270). -/
theorem test_boot :
    (match boot { config 0 .wrap with progBase := 0x100 } [0x10, 0x01, 0x05, 0x00] with
      | .next t => some (t.pc, t.mem, t.cfg.romLen, t.run)
      | .fault _ => none
      | .refused _ => none) = some (0x100, [(0x100, 0x10), (0x101, 0x01), (0x102, 0x05)], 4, .running) := by decide

/-- `s` with a memory of another size and a mask (R8, R60). -/
def withMemory (s : State) (memSize addrMask : Nat) : State :=
  { s with cfg := { s.cfg with memSize := memSize, addrMask := addrMask } }

/-- R64 by hand: SB r1, r2, 0xFFFF with x1 = 0x10 in a memory of 32768 bytes stores at 0x1000F mod 0x8000 = 0x000F, and
with offset 0x7F00 at 0x7F10, which the default mask would not reach. -/
theorem test_sb_other_memory :
    after (withMemory (small 0x20 [(1, 0x10), (2, 0x99)] []) 0x8000 0x7FFF) [0x30, 0x21, 0xFF, 0xFF]
      (memPc [0x00F, 0x7F10]) = some ([0x99, 0x00], 0x24) ∧
    after (withMemory (small 0x20 [(1, 0x10), (2, 0x99)] []) 0x8000 0x7FFF) [0x30, 0x21, 0x00, 0x7F]
      (memPc [0x7F10, 0xF10]) = some ([0x99, 0x00], 0x24) := by decide

/-- D3: a size that is not the mask plus 1 is not defined, and no step is taken. -/
theorem test_memory_pair_undefined :
    (match step (withMemory (small 0 [] []) 0x8000 0x0FFF) with
      | .next _ => false
      | .fault _ => false
      | .refused r => r == .memoryPairUndefined) = true := by decide

/-! ## The host's two questions, from the reset state -/

/-- A placed word is the next instruction run: ADDI r1, r0, 5 (P1). MAX_STEPS is open and positive (log entry 2). -/
theorem test_withFetchWord_addi :
    (match step (State.reset.withFetchWord 32 0x00050110) with
      | .next t => some (t.readReg 1, t.pc)
      | .fault _ => none
      | .refused _ => none) = some (0x05, 4) := rfl

/-- A 24-bit instruction, its fourth byte 0: XOR r1, r1, r1 (3.1). -/
theorem test_withFetchWord_xor :
    (match step (State.reset.withFetchWord 24 0x111608) with
      | .next t => some (t.run, t.pc, t.steps)
      | .fault _ => none
      | .refused _ => none) = some (.running, 3, 1) := rfl

/-- Placing changes neither registers nor pc, and the state stays one a step runs from. -/
theorem test_withFetchWord_place :
    (State.reset.withFetchWord 32 0x00050110).regs = State.reset.regs ∧
    (State.reset.withFetchWord 32 0x00050110).pc = State.reset.pc ∧
    (State.reset.withFetchWord 32 0x00050110).cfg.romLen = 4 := ⟨rfl, rfl, rfl⟩

/-- From reset with nothing placed the first step is a fatal PcOutOfBounds: no ROM is loaded (log entry 5). -/
theorem test_step_reset :
    (match step State.reset with
      | .next t => some (t.run, t.pc, t.steps)
      | .fault _ => none
      | .refused _ => none) = some (.faulted (.pcOutOfBounds 0), 0, 0) := rfl

/-! ## Witnesses: the hypotheses of every statement that has some are met together -/

/-- A Running state whose memory holds SW r1, r15, 0x0100 at pc. -/
def sample : State := withCode (small 0x20 [(1, 0x40), (15, 0x77), (0, 0x55)] []) [0x32, 0xF1, 0x00, 0x01]

/-- The same under PAIR_WRAP = refuse. -/
def sampleRefuse : State :=
  withCode (small 0x20 [(1, 0x40), (15, 0x77), (0, 0x55)] [] (pw := .refuse)) [0x32, 0xF1, 0x00, 0x01]

theorem test_referenceTable_valid : IsaTable.valid referenceTable = true := by decide

theorem test_witness_DecodeInvertsEncode :
    IsaTable.valid referenceTable = true ∧ Instr.wf (.slli 15 0 31) = true := by decide

theorem test_witness_FieldTupleRoundTrip : IsaTable.valid referenceTable = true := test_referenceTable_valid

theorem test_witness_EncodeInvertsDecode :
    IsaTable.valid referenceTable = true ∧
    decode referenceTable [0x18, 0x31, 0xE7, 0xF1, 0x08] = .ok (.srli 3 1 0xE7, [0x08]) := by decide

theorem test_witness_DontCareBitsChangeNothing :
    IsaTable.valid referenceTable = true ∧ decodeWord referenceTable 0xF1E73118 = some (.srli 3 1 0xE7) ∧
    (0xF1E73118 : Word32) &&& careMask .shiftImm = 0x01073118 &&& careMask .shiftImm := by decide

theorem test_witness_ClassifierFindsExactlyTheRows :
    IsaTable.valid referenceTable = true ∧ plainRow .halt 31 7 ∈ referenceTable ∧
    (plainRow .halt 31 7).funct4 = none ∧ funct4Row .srl 1 8 ∈ referenceTable ∧
    (funct4Row .srl 1 8).funct4 = some ((0xF8 : Byte).extractLsb' 0 4) ∧
    classify referenceTable 0x08 (some 0xF8) = some (funct4Row .srl 1 8).descriptor := by decide

theorem test_witness_ReferenceSelectorsExactly :
    (classify referenceTable 0x08 (some 0x08)).isSome = true ∧ (classify referenceTable 0x18 (some 0xF1)).isSome = true ∧
    (classify referenceTable 0x20 (some 0x01)).isSome = true ∧ (classify referenceTable 0x16 (some 0)).isSome = true ∧
    (classify referenceTable 0x2A (some 0)).isSome = true ∧ (classify referenceTable 0x32 (some 0)).isSome = true ∧
    (classify referenceTable 0x3D (some 0)).isSome = true ∧ (classify referenceTable 0x40 (some 0)).isSome = true ∧
    (classify referenceTable 0x48 (some 0)).isSome = true ∧ (classify referenceTable 0xFF (some 0)).isSome = true := by
  decide

theorem test_witness_DivisionResult :
    (sample.readReg 15).toNat ≠ 0 ∧ (0x0201 : Word16).toNat % 256 ≠ 0 := by decide

theorem test_witness_DivisionByZeroIsRecordedAndPassed :
    (sample.readReg 2).toNat = 0 ∧ (0x0200 : Word16).toNat % 256 = 0 := by decide

/-- `sample` with a memory of `2 ^ k` bytes. -/
def sampleBits (k : Nat) : State := withMemory sample (2 ^ k) (2 ^ k - 1)

/-- The size that the spec gives, and the ends of the ranges of sizes in the statements. -/
theorem test_witness_DataAddressDecoder :
    (defaultConfig.memSize = defaultConfig.addrMask + 1 ∧ defaultConfig.memoryBits 12) ∧
    ((sampleBits 0).cfg.memoryBits 0 ∧ (sampleBits 2).cfg.memoryBits 2 ∧ (sampleBits 16).cfg.memoryBits 16) := by
  unfold Config.memoryBits; decide

theorem test_witness_SbStoresOneByte : sample.mem.wf = true ∧ sample.mem ≠ [] := by decide

theorem test_witness_ShStoresByteAndZero :
    sample.mem.wf = true ∧ sample.cfg.memoryBits 12 ∧ 2 ≤ 12 ∧
    (sampleBits 2).mem.wf = true ∧ (sampleBits 2).cfg.memoryBits 2 := by unfold Config.memoryBits; decide

theorem test_witness_SwStoresPairAndZeros :
    (sample.mem.wf = true ∧ sample.cfg.memoryBits 12 ∧ 2 ≤ 12 ∧ sample.cfg.pairWrap = .wrap) ∧
    (sampleRefuse.mem.wf = true ∧ sampleRefuse.cfg.memoryBits 12 ∧ sampleRefuse.cfg.pairWrap = .refuse ∧
      (14 : Reg) ≠ 15) ∧
    ((sampleBits 2).mem.wf = true ∧ (sampleBits 2).cfg.memoryBits 2 ∧ (sampleBits 2).cfg.pairWrap = .wrap) := by
  unfold Config.memoryBits; decide

theorem test_witness_LwResult :
    sample.cfg.pairWrap = .wrap ∧ (sampleRefuse.cfg.pairWrap = .refuse ∧ (14 : Reg) ≠ 15) := by decide

theorem test_witness_RefusedPairForms : sampleRefuse.cfg.pairWrap = .refuse ∧ (15 : Reg) = 15 := by decide

theorem test_witness_SwThenLwRestoresThePair :
    (sample.mem.wf = true ∧ sample.cfg.memoryBits 12 ∧ 2 ≤ 12 ∧ sample.cfg.pairWrap = .wrap) ∧
    ((sampleBits 2).mem.wf = true ∧ (sampleBits 2).cfg.memoryBits 2 ∧ (sampleBits 2).cfg.pairWrap = .wrap) := by
  unfold Config.memoryBits; decide

theorem test_witness_SwThenLbReadsEachByte :
    (sample.mem.wf = true ∧ sample.cfg.memoryBits 12 ∧ 2 ≤ 12 ∧ 12 ≤ 16 ∧ sample.cfg.pairWrap = .wrap ∧ 0 < 4 ∧ 3 < 4) ∧
    ((sampleBits 2).mem.wf = true ∧ (sampleBits 2).cfg.memoryBits 2 ∧ (sampleBits 2).cfg.pairWrap = .wrap) ∧
    ((sampleBits 16).mem.wf = true ∧ (sampleBits 16).cfg.memoryBits 16 ∧ (sampleBits 16).cfg.pairWrap = .wrap) := by
  unfold Config.memoryBits; decide

theorem test_witness_BranchResult :
    (twos 8 (sample.readReg 1).toNat = twos 8 (sample.readReg 1).toNat) ∧
    (twos 8 (sample.readReg 1).toNat ≠ twos 8 (sample.readReg 15).toNat) ∧
    (twos 8 (sample.readReg 1).toNat < twos 8 (sample.readReg 15).toNat) ∧
    ¬ (twos 8 (sample.readReg 1).toNat > twos 8 (sample.readReg 15).toNat) := by decide

/-- Both clauses: SW r1, r15 writes no register; and two states that differ in r2 alone, which ADD r15, r1, r0 does not
read, and in r15 alone, which it writes. -/
theorem test_witness_RegisterReadWriteTable :
    (∃ t, exec (.sw 1 15 0x0100) sample = .next t) ∧ (2 : Reg) ∉ writesOf (.sw 1 15 0x0100) sample ∧
    AgreeExcept 2 sample (sample.writeReg 2 9) ∧ (2 : Reg) ∉ readsOf (.add 15 1 0) ∧
    AgreeExcept 15 sample (sample.writeReg 15 9) ∧ (15 : Reg) ∉ readsOf (.add 15 1 0) ∧
    (15 : Reg) ∈ writesOf (.add 15 1 0) sample ∧ refusedForm (.add 15 1 0) sample.cfg = false := by
  refine ⟨⟨_, rfl⟩, by decide, ⟨by decide, rfl, rfl, ?_⟩, by decide, ⟨by decide, rfl, rfl, ?_⟩, by decide, by decide,
    by decide⟩ <;> exact ⟨rfl, rfl, ⟨rfl, rfl, rfl⟩, rfl, rfl, rfl, rfl, rfl, rfl⟩

theorem test_witness_OnlyLoadsAndStoresTouchMemory :
    (∃ t, exec (.sw 1 15 0x0100) sample = .next t) ∧ 0x144 ∉ storesTo (.sw 1 15 0x0100) sample ∧
    0x143 ∈ storesTo (.sw 1 15 0x0100) sample ∧ touchesMemory (.add 1 2 3) = false := by
  exact ⟨⟨_, rfl⟩, by decide, by decide, rfl⟩

theorem test_witness_OnlyDivisionByZeroIsRecorded :
    (∃ t, exec (.div 1 1 2) sample = .next t) ∧ dividesByZero (.div 1 1 2) sample = true ∧
    dividesByZero (.div 1 1 15) sample = false := by
  exact ⟨⟨_, rfl⟩, by decide, by decide⟩

theorem test_witness_PlainInstructionsGoToNextPc :
    namesPc (.sw 1 15 0x0100) = false ∧ refusedForm (.sw 1 15 0x0100) sample.cfg = false ∧
    ∃ t, exec (.sw 1 15 0x0100) sample = .next t := ⟨rfl, by decide, _, rfl⟩

theorem test_ready_sample : sample.ready := by unfold State.ready; decide

theorem test_witness_StepRunsTheDecodedInstruction :
    sample.ready ∧
    decodeWord sample.cfg.isa (leWord (sample.mem.bytesFrom sample.pc.toNat 4)) = some (.sw 1 15 0x0100) ∧
    (∀ k, k < Instr.len (.sw 1 15 0x0100) → inRegion sample.cfg (sample.pc.toNat + k) = true) := by
  exact ⟨test_ready_sample, by decide, by decide⟩

/-- The four clauses: terminal, a mask above and below the size's, and a ROM of 4097 and of 4096 bytes. -/
theorem test_witness_StepOutcomeByState :
    (sample.setRun .halted).run ≠ .running ∧
    ((withMemory sample 4096 4096).run = .running ∧
      (withMemory sample 4096 4096).cfg.memSize ≠ (withMemory sample 4096 4096).cfg.addrMask + 1) ∧
    ((withMemory sample 4097 4095).run = .running ∧
      (withMemory sample 4097 4095).cfg.memSize ≠ (withMemory sample 4097 4095).cfg.addrMask + 1) ∧
    ((small 0 [] [] 4097).run = .running ∧ (small 0 [] [] 4097).cfg.memSize = (small 0 [] [] 4097).cfg.addrMask + 1 ∧
      (small 0 [] [] 4097).cfg.progBase.toNat + (small 0 [] [] 4097).cfg.romLen > (small 0 [] [] 4097).cfg.memSize) ∧
    ((small 0 [] [] 4096).run = .running ∧ (small 0 [] [] 4096).cfg.memSize = (small 0 [] [] 4096).cfg.addrMask + 1 ∧
      (small 0 [] [] 4096).cfg.progBase.toNat + (small 0 [] [] 4096).cfg.romLen ≤ (small 0 [] [] 4096).cfg.memSize) := by
  decide

/-- A state at the ceiling. -/
def atCeiling : State := { sample with steps := 100 }

theorem test_witness_CeilingEndsTheRun :
    atCeiling.run = .running ∧ atCeiling.cfg.memoryDefined = true ∧ atCeiling.cfg.romFits = true ∧
    atCeiling.cfg.maxSteps ≤ atCeiling.steps := by decide

/-- No selector; a funct4 selector with an unused funct4; and ADD in a state already Faulted. -/
theorem test_witness_UnknownInstructionIsRaised :
    ((small 0 [] [(0, 0x07)]).ready ∧ inRegion (small 0 [] [(0, 0x07)]).cfg (small 0 [] [(0, 0x07)]).pc.toNat = true ∧
      (∀ r ∈ (small 0 [] [(0, 0x07)]).cfg.isa,
        r.sel ≠ (small 0 [] [(0, 0x07)]).mem.rd8 (small 0 [] [(0, 0x07)]).pc.toNat)) ∧
    ((small 0 [] [(0, 0x08), (1, 0x09)]).ready ∧ inRegion (small 0 [] [(0, 0x08), (1, 0x09)]).cfg 0 = true ∧
      inRegion (small 0 [] [(0, 0x08), (1, 0x09)]).cfg 1 = true ∧
      (∃ r ∈ (small 0 [] [(0, 0x08), (1, 0x09)]).cfg.isa, r.funct4.isSome = true ∧
        r.sel = (small 0 [] [(0, 0x08), (1, 0x09)]).mem.rd8 0) ∧
      (∀ r ∈ (small 0 [] [(0, 0x08), (1, 0x09)]).cfg.isa, r.sel = (small 0 [] [(0, 0x08), (1, 0x09)]).mem.rd8 0 →
        r.funct4 ≠ some (((small 0 [] [(0, 0x08), (1, 0x09)]).mem.rd8 1).extractLsb' 0 4))) ∧
    (∃ t, exec (.add 1 2 3) (sample.setRun (.faulted .unknownInstruction)) = .next t ∧
      t.run = .faulted .unknownInstruction) := by
  refine ⟨by unfold State.ready; decide, ⟨by unfold State.ready; decide, by decide, by decide, ?_, by decide⟩, _, rfl,
    rfl⟩
  exact ⟨funct4Row .add 1 0, by decide, by decide, by decide⟩

theorem test_witness_ZeroSelectorIsReserved :
    IsaTable.valid referenceTable = true ∧ funct4Row .add 1 0 ∈ referenceTable ∧ (small 0 [] []).ready ∧
    IsaTable.valid (small 0 [] []).cfg.isa = true ∧ inRegion (small 0 [] []).cfg (small 0 [] []).pc.toNat = true ∧
    (small 0 [] []).mem.rd8 (small 0 [] []).pc.toNat = 0x00 := by
  unfold State.ready; decide

/-- A region of `n` bytes from 0 with ADD at 0. -/
def addCutAt (n : Nat) : State := withCode (small 0 [] [] n) [0x08, 0x00, 0x21]

/-- A region of `n` bytes from 0 with ADDI at 0. -/
def addiCutAt (n : Nat) : State := withCode (small 0 [] [] n) [0x10, 0x01, 0x05, 0x00]

/-- The three clauses: byte0 outside, byte1 of a funct4 selector outside, and a later byte outside, for a funct4
selector (k = 2) and for another (k = 1 and k = 3). -/
theorem test_witness_PcOutOfBoundsOrder :
    ((addCutAt 0).ready ∧ inRegion (addCutAt 0).cfg 0 = false) ∧
    ((addCutAt 1).ready ∧ inRegion (addCutAt 1).cfg 0 = true ∧
      isFunct4Selector (addCutAt 1).cfg.isa ((addCutAt 1).mem.rd8 0) = true ∧ inRegion (addCutAt 1).cfg 1 = false) ∧
    ((addCutAt 2).ready ∧ isFunct4Selector (addCutAt 2).cfg.isa ((addCutAt 2).mem.rd8 0) = true ∧
      2 < (funct4Row .add 1 0).descriptor.lenBytes ∧ (∀ j, j < 2 → inRegion (addCutAt 2).cfg (0 + j) = true) ∧
      inRegion (addCutAt 2).cfg (0 + 2) = false ∧
      classify (addCutAt 2).cfg.isa ((addCutAt 2).mem.rd8 0) (some ((addCutAt 2).mem.rd8 1)) =
        some (funct4Row .add 1 0).descriptor) ∧
    (∀ k, k = 1 ∨ k = 3 → (addiCutAt k).ready ∧
      isFunct4Selector (addiCutAt k).cfg.isa ((addiCutAt k).mem.rd8 0) = false ∧
      k < (plainRow .addi 2 0).descriptor.lenBytes ∧ (∀ j, j < k → inRegion (addiCutAt k).cfg (0 + j) = true) ∧
      inRegion (addiCutAt k).cfg (0 + k) = false ∧
      classify (addiCutAt k).cfg.isa ((addiCutAt k).mem.rd8 0) (some ((addiCutAt k).mem.rd8 1)) =
        some (plainRow .addi 2 0).descriptor) := by
  unfold State.ready
  refine ⟨by decide, by decide, by decide, ?_⟩
  rintro k (rfl | rfl) <;> decide

theorem test_witness_FatalFaultWithholdsTheStep :
    ∃ t, step (addCutAt 0) = .next t ∧ t.run = .faulted (.pcOutOfBounds 0) := ⟨_, rfl, rfl⟩

theorem test_witness_ReservedErrorsAreNeverRaised : ∃ t, step (addCutAt 2) = .next t := ⟨_, rfl⟩

/-- The three kinds of step that StepBookkeeping tells apart: completed, refused, at the ceiling. -/
theorem test_witness_StepBookkeeping :
    (∃ t, step sample = .next t ∧ t.run = .running) ∧ (∃ t, step sampleRefuse = .next t ∧ t.run = .refused) ∧
    (∃ t, step atCeiling = .next t ∧ t.run = .ceilingReached) := ⟨⟨_, rfl, rfl⟩, ⟨_, rfl, rfl⟩, _, rfl, rfl⟩

theorem test_witness_ReservedStateIsInert : ∃ t, step sample = .next t := ⟨_, rfl⟩

theorem test_sample_inv : sample.Inv := 
  ⟨by decide, by decide, by decide, by decide, by decide, by decide, by decide, by decide⟩

theorem test_witness_StepKeepsTheInvariant : sample.Inv ∧ ∃ t, step sample = .next t := ⟨test_sample_inv, _, rfl⟩

theorem test_witness_CanonicalMemoriesAreDetermined :
    Memory.wf [(0, 1), (4095, 2)] = true ∧ ∀ a, Memory.rd8 [(0, 1), (4095, 2)] a = Memory.rd8 [(0, 1), (4095, 2)] a :=
  ⟨by decide, fun _ => rfl⟩

/-- The three clauses: an image up to 4096, one up to 4097, and a pair that does not agree. -/
theorem test_witness_BootLoadsTheImage :
    IsaTable.valid (config 0 .wrap).isa = true ∧ 0 < (config 0 .wrap).maxSteps ∧
    (config 0 .wrap).memSize = (config 0 .wrap).addrMask + 1 ∧
    (0xFFF : Word16).toNat + [(0xFF : Byte)].length ≤ (config 0 .wrap).memSize ∧
    (0xFFF : Word16).toNat + [(0xFF : Byte), 0x00].length > (config 0 .wrap).memSize ∧
    (withMemory sample 4097 4095).cfg.memSize ≠ (withMemory sample 4097 4095).cfg.addrMask + 1 := by decide

theorem test_witness_EveryRunEndsWithinTheCeiling :
    sample.Inv ∧ sample.run = .running ∧ sample.cfg.pairWrap = .wrap := ⟨test_sample_inv, rfl, rfl⟩

end Sys2Proof.Tests
end

