-- ==== Sys2Proof/Proofs/Fields.lean ====
section
/-! PROOFS. Bit fields as numbers: what the decoder's fields and the encoder's combinations of fields are in arithmetic
(spec 30_encoding.md R91, R116, R127), and the packing of every format. -/

namespace Sys2Proof

/-! ## Single fields -/

/-- A bit field of a word is a quotient and a remainder of its number (R9). -/
theorem extractLsb'_toNat_div {n : Nat} (w : BitVec n) (lo k : Nat) :
    (w.extractLsb' lo k).toNat = w.toNat / 2 ^ lo % 2 ^ k := by
  rw [BitVec.extractLsb'_toNat, Nat.shiftRight_eq_div_pow]

/-- A bit field of a bit field is a bit field of the word. -/
theorem extractLsb'_extractLsb' {n a b k m : Nat} (w : BitVec n) (h : b + k ≤ m) :
    (w.extractLsb' a m).extractLsb' b k = w.extractLsb' (a + b) k := by
  ext i hi
  have hbi : b + i < m := by omega
  simp [hbi, Nat.add_assoc]

theorem regField_val (lo : Nat) (w : Word32) : (regField lo w).val = w.toNat / 2 ^ lo % 16 :=
  extractLsb'_toNat_div w lo 4

/-- A field zero-extended into the 20-bit immediate keeps its number. -/
theorem immField_toNat {n : Nat} (w : BitVec n) (lo k : Nat) (hk : k ≤ 20) :
    ((w.extractLsb' lo k).setWidth 20).toNat = w.toNat / 2 ^ lo % 2 ^ k := by
  rw [BitVec.toNat_setWidth_of_le hk, extractLsb'_toNat_div]

/-- The 16-bit immediate is the upper half of the word. -/
theorem imm16Field_toNat (w : Word32) : ((w.extractLsb' 16 16).setWidth 20).toNat = w.toNat / 2 ^ 16 := by
  rw [immField_toNat w 16 16 (by decide)]
  omega

/-! ## Fields put side by side -/

/-- Or-ing a field in above all bits set so far is adding it at its place. -/
theorem toNat_or_shiftLeft {W n lo : Nat} {a : BitVec W} (v : BitVec n) (ha : a.toNat < 2 ^ lo) (hlo : lo + n ≤ W) :
    (a ||| v.setWidth W <<< lo).toNat = a.toNat + v.toNat * 2 ^ lo := by
  have hv : v.toNat * 2 ^ lo < 2 ^ W := by
    calc v.toNat * 2 ^ lo < 2 ^ n * 2 ^ lo := Nat.mul_lt_mul_of_pos_right v.isLt (Nat.two_pow_pos lo)
      _ = 2 ^ (lo + n) := by rw [Nat.pow_add, Nat.mul_comm]
      _ ≤ 2 ^ W := Nat.pow_le_pow_right (by decide) hlo
  rw [BitVec.toNat_or, BitVec.toNat_shiftLeft, BitVec.toNat_setWidth_of_le (by omega), Nat.shiftLeft_eq,
    Nat.mod_eq_of_lt hv, Nat.or_comm, ← Nat.shiftLeft_eq, ← Nat.shiftLeft_add_eq_or_of_lt ha, Nat.add_comm]

/-- The selector byte is `opcode * 8 + funct3` (R91). -/
theorem selectorOf_toNat (o : BitVec 5) (f : BitVec 3) : (selectorOf o f).toNat = f.toNat + o.toNat * 8 := by
  have hf : (f.setWidth 8).toNat = f.toNat := BitVec.toNat_setWidth_of_le (by decide)
  rw [selectorOf, BitVec.or_comm, toNat_or_shiftLeft o (by rw [hf]; exact f.isLt) (by decide), hf]
  omega

/-- The two parts of JAL's immediate are the upper 20 bits of the word (R96, R116). -/
theorem imm20Field_toNat (w : Word32) :
    ((w.extractLsb' 12 12).setWidth 20 ||| (w.extractLsb' 24 8).setWidth 20 <<< 12).toNat = w.toNat / 2 ^ 12 := by
  have hlow := immField_toNat w 12 12 (by decide)
  rw [toNat_or_shiftLeft _ (by rw [hlow]; omega) (by decide), hlow, extractLsb'_toNat_div]
  omega

/-- The word's number is `x`, and no bit of it is set from `n` on: what the encoder has after packing the fields below
bit `n`. -/
structure Packs (w : Word32) (n x : Nat) : Prop where
  toNat_eq : w.toNat = x
  lt : x < 2 ^ n

/-- Packing begins with the selector byte. -/
theorem Packs.sel (sel : Byte) : Packs (placeField 0 sel) 8 sel.toNat := by
  refine ⟨?_, sel.isLt⟩
  rw [placeField, BitVec.shiftLeft_zero, BitVec.toNat_setWidth_of_le (by decide)]

/-- One more field, at or above the first free bit. -/
theorem Packs.field {w : Word32} {m x k : Nat} (h : Packs w m x) (lo : Nat) (v : BitVec k) (hm : m ≤ lo)
    (hlo : lo + k ≤ 32) : Packs (w ||| placeField lo v) (lo + k) (x + v.toNat * 2 ^ lo) := by
  obtain ⟨hw, hx⟩ := h
  have hx' : x < 2 ^ lo := hx.trans_le (Nat.pow_le_pow_right (by decide) hm)
  refine ⟨by rw [placeField, toNat_or_shiftLeft v (hw ▸ hx') hlo, hw], ?_⟩
  calc x + v.toNat * 2 ^ lo < (v.toNat + 1) * 2 ^ lo := by rw [Nat.succ_mul]; omega
    _ ≤ 2 ^ k * 2 ^ lo := Nat.mul_le_mul_right _ v.isLt
    _ = 2 ^ (lo + k) := by rw [Nat.pow_add, Nat.mul_comm]

/-- One more register field, at or above the first free bit. -/
theorem Packs.reg {w : Word32} {m x : Nat} (h : Packs w m x) (lo : Nat) (r : Reg) (hm : m ≤ lo) (hlo : lo + 4 ≤ 32) :
    Packs (w ||| placeReg lo r) (lo + 4) (x + r.val * 2 ^ lo) :=
  h.field lo (BitVec.ofFin r : BitVec 4) hm hlo

/-! ## The packing of every format (R127) -/

variable (sel : Byte) (f4 : BitVec 4) (o : OperandFields)

theorem packWord_r_toNat : (packWord .r sel f4 o).toNat =
    sel.toNat + f4.toNat * 2 ^ 8 + o.rd.val * 2 ^ 12 + o.rs1.val * 2 ^ 16 + o.rs2.val * 2 ^ 20 :=
  (((((Packs.sel sel).field 8 f4 (by decide) (by decide)).reg 12 o.rd (by decide) (by decide)).reg 16 o.rs1
    (by decide) (by decide)).reg 20 o.rs2 (by decide) (by decide)).toNat_eq

theorem packWord_i_toNat : (packWord .i sel f4 o).toNat =
    sel.toNat + o.rd.val * 2 ^ 8 + o.rs1.val * 2 ^ 12 + o.imm.toNat % 2 ^ 16 * 2 ^ 16 := by
  rw [← BitVec.toNat_setWidth]
  exact ((((Packs.sel sel).reg 8 o.rd (by decide) (by decide)).reg 12 o.rs1 (by decide) (by decide)).field 16
    (o.imm.setWidth 16) (by decide) (by decide)).toNat_eq

theorem packWord_jReg_eq_i : packWord .jReg sel f4 o = packWord .i sel f4 o := rfl

theorem packWord_u_toNat : (packWord .u sel f4 o).toNat =
    sel.toNat + f4.toNat * 2 ^ 8 + o.rd.val * 2 ^ 12 + o.imm.toNat % 2 ^ 16 * 2 ^ 16 := by
  rw [← BitVec.toNat_setWidth]
  exact ((((Packs.sel sel).field 8 f4 (by decide) (by decide)).reg 12 o.rd (by decide) (by decide)).field 16
    (o.imm.setWidth 16) (by decide) (by decide)).toNat_eq

theorem packWord_s_toNat : (packWord .s sel f4 o).toNat =
    sel.toNat + o.rs1.val * 2 ^ 8 + o.rs2.val * 2 ^ 12 + o.imm.toNat % 2 ^ 16 * 2 ^ 16 := by
  rw [← BitVec.toNat_setWidth]
  exact ((((Packs.sel sel).reg 8 o.rs1 (by decide) (by decide)).reg 12 o.rs2 (by decide) (by decide)).field 16
    (o.imm.setWidth 16) (by decide) (by decide)).toNat_eq

theorem packWord_jImm_toNat : (packWord .jImm sel f4 o).toNat =
    sel.toNat + o.rd.val * 2 ^ 8 + o.imm.toNat % 2 ^ 12 * 2 ^ 12 + o.imm.toNat / 2 ^ 12 * 2 ^ 24 := by
  have hlow : (o.imm.extractLsb' 0 12).toNat = o.imm.toNat % 2 ^ 12 := by
    rw [extractLsb'_toNat_div, Nat.pow_zero, Nat.div_one]
  have hhigh : (o.imm.extractLsb' 12 8).toNat = o.imm.toNat / 2 ^ 12 := by
    rw [extractLsb'_toNat_div]
    omega
  rw [← hlow, ← hhigh]
  exact ((((Packs.sel sel).reg 8 o.rd (by decide) (by decide)).field 12 (o.imm.extractLsb' 0 12) (by decide)
    (by decide)).field 24 (o.imm.extractLsb' 12 8) (by decide) (by decide)).toNat_eq

theorem packWord_shiftImm_toNat : (packWord .shiftImm sel f4 o).toNat =
    sel.toNat + f4.toNat * 2 ^ 8 + o.rd.val * 2 ^ 12 + o.imm.toNat % 2 ^ 5 * 2 ^ 16 + o.rs1.val * 2 ^ 24 := by
  have hlow : (o.imm.extractLsb' 0 5).toNat = o.imm.toNat % 2 ^ 5 := by
    rw [extractLsb'_toNat_div, Nat.pow_zero, Nat.div_one]
  rw [← hlow]
  exact (((((Packs.sel sel).field 8 f4 (by decide) (by decide)).reg 12 o.rd (by decide) (by decide)).field 16
    (o.imm.extractLsb' 0 5) (by decide) (by decide)).reg 24 o.rs1 (by decide) (by decide)).toNat_eq

theorem packWord_noOperand_toNat : (packWord .noOperand sel f4 o).toNat = sel.toNat := (Packs.sel sel).toNat_eq

/-! ## Bytes of a word (R9) -/

/-- Byte `k` of the serialised word, as a number. -/
theorem leBytes_getElem_toNat (n k : Nat) (w : Word32) (h : k < (leBytes n w).length) :
    ((leBytes n w)[k]).toNat = w.toNat / 256 ^ k % 256 := by
  have hk : k < n := by simpa using h
  rw [← List.getD_eq_getElem _ 0 h, leBytes_getD n k w hk, extractLsb'_toNat_div, Nat.pow_mul]
  rfl

end Sys2Proof
end

