-- ==== Sys2Proof/Proofs/EncodingFamily.lean ====
section
/-! PROOFS. The statements about the decoder's fields, the encoder's packing, the round trip of the field tuple and the
reserved selector 0x00 (spec 30_encoding.md R103, R107, R112, R116, R118, R127). -/

namespace Sys2Proof

open Sys2Proof.Machine

/-! ## The decoder's fields -/

@[simp] theorem decodeFields_opcode (w : Word32) (d : Descriptor) : (decodeFields w d).opcode = w.extractLsb' 3 5 := by
  unfold decodeFields
  cases d.format <;> rfl

@[simp] theorem decodeFields_funct3 (w : Word32) (d : Descriptor) : (decodeFields w d).funct3 = w.extractLsb' 0 3 := by
  unfold decodeFields
  cases d.format <;> rfl

@[simp] theorem decodeFields_desc (w : Word32) (d : Descriptor) : (decodeFields w d).desc = d := by
  unfold decodeFields
  cases d.format <;> rfl

theorem decodeFields_funct4 (w : Word32) (d : Descriptor) :
    (decodeFields w d).funct4 = if d.format.usesFunct4 then w.extractLsb' 8 4 else 0 := by
  unfold decodeFields
  cases d.format <;> rfl

/-- Settles O6, one case per format, each field by the arithmetic of bit fields. -/
theorem decoderFieldPositions : Obligations.DecoderFieldPositions := by
  unfold Obligations.DecoderFieldPositions
  intro w d
  refine ⟨?_, ?_, decodeFields_desc w d, ?_⟩
  · rw [decodeFields_opcode]; exact extractLsb'_toNat_div w 3 5
  · rw [decodeFields_funct3, extractLsb'_toNat_div]; omega
  have hf4 : (w.extractLsb' 8 4).toNat = w.toNat / 2 ^ 8 % 16 := extractLsb'_toNat_div w 8 4
  cases hf : d.format <;> simp only [decodeFields, hf, and_true]
  case r => exact ⟨hf4, regField_val 12 w, regField_val 16 w, regField_val 20 w⟩
  case i | jReg => exact ⟨regField_val 8 w, regField_val 12 w, imm16Field_toNat w⟩
  case u => exact ⟨hf4, regField_val 12 w, imm16Field_toNat w⟩
  case s => exact ⟨regField_val 8 w, regField_val 12 w, imm16Field_toNat w⟩
  case jImm => exact ⟨regField_val 8 w, imm20Field_toNat w⟩
  case shiftImm => exact ⟨hf4, regField_val 12 w, immField_toNat w 16 8 (by decide), regField_val 24 w⟩

/-! ## The encoder's packing -/

/-- Settles O7: each format's packed word is the sum of its fields at their places, regrouped as R127 writes it. -/
theorem encoderPacking : Obligations.EncoderPacking := by
  unfold Obligations.EncoderPacking
  intro t i
  refine ⟨?_, leBytes_length _ _, fun k h => leBytes_getElem_toNat _ k _ h⟩
  simp only [encodeWord]
  have hsel := selectorOf_toNat (t.row i.mnemonic).opcode (t.row i.mnemonic).funct3
  rw [← IsaRow.sel] at hsel
  rw [← hsel]
  generalize (t.row i.mnemonic).sel = sel, (t.row i.mnemonic).funct4.getD 0 = f4, i.operands = o
  cases i.mnemonic.format with
  | r => simp only [packWord_r_toNat]; omega
  | i => simp only [packWord_i_toNat]; omega
  | u => simp only [packWord_u_toNat]; omega
  | s => simp only [packWord_s_toNat]; omega
  | jImm => exact packWord_jImm_toNat sel f4 o
  | jReg => simp only [packWord_jReg_eq_i, packWord_i_toNat]; omega
  | shiftImm => simp only [packWord_shiftImm_toNat]; omega
  | noOperand => exact packWord_noOperand_toNat sel f4 o

/-! ## The classifier on a row of a legal table (R106, R112) -/

@[simp] theorem IsaRow.sel_opcode (r : IsaRow) : r.sel.extractLsb' 3 5 = r.opcode := selectorOf_opcode _ _

@[simp] theorem IsaRow.sel_funct3 (r : IsaRow) : r.sel.extractLsb' 0 3 = r.funct3 := selectorOf_funct3 _ _

/-- A row's selector byte is in F4SEL exactly when the row has a funct4 (R106 (b), R111). -/
theorem isFunct4Selector_row {t : IsaTable} (ht : IsaTable.valid t = true) {r : IsaRow} (hr : r ∈ t) :
    isFunct4Selector t r.sel = r.funct4.isSome := by
  obtain ⟨-, -, hapart, -, -⟩ := (IsaTable.valid_iff t).mp ht
  rw [isFunct4Selector, Bool.eq_iff_iff, List.any_eq_true]
  constructor
  · rintro ⟨q, hq, hqr⟩
    obtain ⟨hsome, hsel⟩ : q.funct4.isSome = true ∧ q.sel = r.sel := by simpa using hqr
    rwa [← IsaTable.funct4_of_sel hapart hq hr hsel]
  · exact fun h => ⟨r, hr, by simp [h]⟩

/-- A search by the three keys of a row of a legal table finds the row, since no other row has them (R106 (a)). -/
theorem find?_row {t : IsaTable} (h : IsaTable.unambiguous t = true) {r : IsaRow} (hr : r ∈ t)
    {p : Option (BitVec 4) → Bool} (hp : ∀ f4, p f4 = true ↔ f4 = r.funct4) :
    t.find? (fun q => p q.funct4 && q.opcode == r.opcode && q.funct3 == r.funct3) = some r := by
  have hsome : (t.find? fun q => p q.funct4 && q.opcode == r.opcode && q.funct3 == r.funct3).isSome = true :=
    List.find?_isSome.mpr ⟨r, hr, by simp [hp]⟩
  obtain ⟨q, hq⟩ := Option.isSome_iff_exists.mp hsome
  obtain ⟨⟨h4, hop⟩, hf3⟩ : (q.funct4 = r.funct4 ∧ q.opcode = r.opcode) ∧ q.funct3 = r.funct3 := by
    simpa [hp] using List.find?_some hq
  rw [hq, IsaTable.eq_of_keys h (List.mem_of_find?_eq_some hq) hr hop hf3 h4]

/-- The 2-key lookup finds a row with no funct4. -/
theorem lookup2_row {t : IsaTable} (ht : IsaTable.valid t = true) {r : IsaRow} (hr : r ∈ t) (h4 : r.funct4 = none) :
    lookup2 t r.opcode r.funct3 = some r.descriptor := by
  obtain ⟨-, hunamb, -, -, hzero⟩ := (IsaTable.valid_iff t).mp ht
  rw [lookup2, ← IsaRow.sel, if_neg (IsaTable.sel_ne_zero hzero hr),
    find?_row hunamb hr (p := Option.isNone) (by simp [h4]), Option.map_some]

/-- The 3-key lookup finds a row with a funct4. -/
theorem lookup3_row {t : IsaTable} (ht : IsaTable.valid t = true) {r : IsaRow} (hr : r ∈ t) {f4 : BitVec 4}
    (h4 : r.funct4 = some f4) : lookup3 t r.opcode r.funct3 f4 = some r.descriptor := by
  obtain ⟨-, hunamb, -, -, hzero⟩ := (IsaTable.valid_iff t).mp ht
  rw [lookup3, ← IsaRow.sel, if_neg (IsaTable.sel_ne_zero hzero hr),
    find?_row hunamb hr (p := (· == some f4)) (by simp [h4]), Option.map_some]

/-- A row with no funct4 is found by its selector byte, whatever follows it. -/
theorem classify_row_of_none {t : IsaTable} (ht : IsaTable.valid t = true) {r : IsaRow} (hr : r ∈ t)
    (h4 : r.funct4 = none) (b1 : Option Byte) : classify t r.sel b1 = some r.descriptor := by
  have hsel : isFunct4Selector t r.sel = false := by rw [isFunct4Selector_row ht hr, h4, Option.isSome_none]
  simp only [classify, hsel, IsaRow.sel_opcode, IsaRow.sel_funct3]
  exact lookup2_row ht hr h4

/-- A row with a funct4 is found by its selector byte and the low nibble of byte1. -/
theorem classify_row_of_some {t : IsaTable} (ht : IsaTable.valid t = true) {r : IsaRow} (hr : r ∈ t) {b1 : Byte}
    (h4 : r.funct4 = some (b1.extractLsb' 0 4)) : classify t r.sel (some b1) = some r.descriptor := by
  have hsel : isFunct4Selector t r.sel = true := by rw [isFunct4Selector_row ht hr, h4, Option.isSome_some]
  simp only [classify, hsel, IsaRow.sel_opcode, IsaRow.sel_funct3]
  exact lookup3_row ht hr h4

/-! ## The round trip of the field tuple (R118) -/

/-- The 5-bit field of a shift amount holds the amount after its mask (R98). -/
theorem shamtField_eq_mask (shamt : Byte) :
    (((shamt.setWidth 20 : BitVec 20).extractLsb' 0 5).setWidth 20 : BitVec 20) = (shamt &&& 0x1F).setWidth 20 := by
  apply BitVec.eq_of_toNat_eq
  rw [immField_toNat _ 0 5 (by decide), BitVec.toNat_setWidth_of_le (by decide),
    BitVec.toNat_setWidth_of_le (by decide), ← shiftAmount, shiftAmount_toNat]
  omega

/-- A packed instruction's operands decode to the operands fed in, a shift amount after its mask. -/
theorem operands_decodeFields_packWord (i : Instr) (sel : Byte) (f4 : BitVec 4) {d : Descriptor}
    (hd : d.format = i.mnemonic.format) :
    (decodeFields (packWord i.mnemonic.format sel f4 i.operands) d).operands = maskedOperands i := by
  have himm : ∀ imm : Word16, ((imm.setWidth 20 : BitVec 20).setWidth 16).setWidth 20 = (imm.setWidth 20 : BitVec 20) :=
    fun imm => by rw [BitVec.setWidth_setWidth_of_le imm (by decide), BitVec.setWidth_eq]
  rw [← hd, decodeFields_packWord, hd]
  cases i with
  | slli rd rs1 shamt | srli rd rs1 shamt => exact congrArg (OperandFields.mk rd rs1 0) (shamtField_eq_mask shamt)
  | _ => simp only [Instr.mnemonic, Mnemonic.format, Instr.operands, maskedOperands, himm]

/-- byte0 of an encoded word is its row's selector byte. -/
theorem encodeWord_byte0 (t : IsaTable) (i : Instr) :
    (encodeWord t i).extractLsb' 0 8 = (t.row i.mnemonic).sel := packWord_sel _ _ _ _

/-- The encoded word carries its row's opcode. -/
theorem encodeWord_opcode (t : IsaTable) (i : Instr) :
    (encodeWord t i).extractLsb' 3 5 = (t.row i.mnemonic).opcode := by
  rw [← IsaRow.sel_opcode, ← encodeWord_byte0, extractLsb'_extractLsb' _ (by decide)]

/-- The encoded word carries its row's funct3. -/
theorem encodeWord_funct3 (t : IsaTable) (i : Instr) :
    (encodeWord t i).extractLsb' 0 3 = (t.row i.mnemonic).funct3 := by
  rw [← IsaRow.sel_funct3, ← encodeWord_byte0, extractLsb'_extractLsb' _ (by decide)]

/-- The encoded word of an instruction under a legal table classifies to the row of its mnemonic. -/
theorem classify_encodeWord {t : IsaTable} (ht : IsaTable.valid t = true) (i : Instr) :
    classify t ((encodeWord t i).extractLsb' 0 8) (some ((encodeWord t i).extractLsb' 8 8)) =
      some (t.row i.mnemonic).descriptor := by
  obtain ⟨hcomplete, -, -, hformat, -⟩ := (IsaTable.valid_iff t).mp ht
  obtain ⟨hr, hm⟩ := IsaTable.row_mem hcomplete i.mnemonic
  rw [encodeWord_byte0]
  cases h4 : (t.row i.mnemonic).funct4 with
  | none => exact classify_row_of_none ht hr h4 _
  | some f4 =>
    refine classify_row_of_some ht hr ?_
    have huses : i.mnemonic.format.usesFunct4 = true := by
      rw [← hm, ← IsaTable.funct4_iff_format hformat hr, h4, Option.isSome_some]
    rw [h4, extractLsb'_extractLsb' _ (by decide), encodeWord, packWord_funct4 _ _ _ _ huses, h4,
      Option.getD_some]

/-- The decoder gives an encoded word's funct4 back, 0 if its row has none. -/
theorem decodeFields_encodeWord_funct4 {t : IsaTable} (ht : IsaTable.valid t = true) (i : Instr) :
    (decodeFields (encodeWord t i) (t.row i.mnemonic).descriptor).funct4 = (t.row i.mnemonic).funct4.getD 0 := by
  obtain ⟨hcomplete, -, -, hformat, -⟩ := (IsaTable.valid_iff t).mp ht
  obtain ⟨hr, hm⟩ := IsaTable.row_mem hcomplete i.mnemonic
  have hsome := IsaTable.funct4_iff_format hformat hr
  rw [hm] at hsome
  rw [decodeFields_funct4, IsaRow.descriptor, hm]
  cases huses : i.mnemonic.format.usesFunct4 with
  | true => exact packWord_funct4 _ _ _ _ huses
  | false =>
    rw [huses, Option.isSome_eq_false_iff, Option.isNone_iff_eq_none] at hsome
    rw [hsome]
    rfl

/-- Settles O2 with the row of the instruction's mnemonic: the word classifies to it, and each field of the decoder's
record is the one packed. -/
theorem fieldTupleRoundTrip : Obligations.FieldTupleRoundTrip := by
  unfold Obligations.FieldTupleRoundTrip
  intro t i ht
  obtain ⟨hr, hm⟩ := IsaTable.row_mem ((IsaTable.valid_iff t).mp ht).1 i.mnemonic
  refine ⟨t.row i.mnemonic, hr, hm, classify_encodeWord ht i, ?_, ?_, decodeFields_encodeWord_funct4 ht i, ?_⟩
  · rw [decodeFields_opcode, encodeWord_opcode]
  · rw [decodeFields_funct3, encodeWord_funct3]
  · exact operands_decodeFields_packWord i _ _ (congrArg Mnemonic.format hm)

/-! ## The reserved selector 0x00 (R107) -/

/-- No lookup answers for the selector 0x00, whatever the table. -/
theorem classify_zero (t : IsaTable) (b1 : Option Byte) : classify t 0x00 b1 = none := by
  have hzero : selectorOf ((0x00 : Byte).extractLsb' 3 5) ((0x00 : Byte).extractLsb' 0 3) = 0 := selectorOf_extract 0
  simp only [classify, lookup2, lookup3, if_pos hzero]
  cases b1 <;> simp

/-- The selector 0x00 is in no legal table's F4SEL. -/
theorem isFunct4Selector_zero {t : IsaTable} (h : IsaTable.noZeroSelector t = true) :
    isFunct4Selector t 0x00 = false := by
  rw [isFunct4Selector, List.any_eq_false]
  intro r hr
  simpa using fun _ => IsaTable.sel_ne_zero h hr

/-- Fetching byte0 = 0x00 raises UnknownInstruction before any further byte is fetched. -/
theorem fetch_zero {s : State} (ht : IsaTable.noZeroSelector s.cfg.isa = true)
    (hin : inRegion s.cfg s.pc.toNat = true) (hb : s.mem.rd8 s.pc.toNat = 0x00) :
    fetch s = .error .unknownInstruction (leWord [0x00]) := by
  simp only [fetch, hin, hb, isFunct4Selector_zero ht, classify_zero, fetchWhole]
  rfl

/-- What taking a fatal error leaves of a state (60_exceptions.md R243, R246). -/
theorem raiseFatal_endsFaulted (s : State) (kind : ErrorKind) (w : Word32) :
    EndsFaulted s (s.raiseFatal kind w) kind w.toNat :=
  ⟨rfl, rfl, rfl, rfl, fun _ => rfl, fun _ => rfl, rfl, rfl, rfl, rfl, rfl, rfl, rfl, rfl⟩

/-- A ready state whose fetch raises an error takes it. -/
theorem step_of_fetch_error {s : State} (hs : s.ready) {kind : ErrorKind} {w : Word32}
    (hf : fetch s = .error kind w) : ∃ t, step s = .next t ∧ EndsFaulted s t kind w.toNat :=
  ⟨s.raiseFatal kind w, by rw [step_of_ready hs, hf], raiseFatal_endsFaulted s kind w⟩

/-- Settles O42: a legal table's rows have non-zero selectors, so a fetched 0x00 classifies to nothing. -/
theorem zeroSelectorIsReserved : Obligations.ZeroSelectorIsReserved := by
  unfold Obligations.ZeroSelectorIsReserved
  constructor
  · rintro t ht r hr ⟨hop, hf3⟩
    obtain ⟨-, -, -, -, hzero⟩ := (IsaTable.valid_iff t).mp ht
    refine IsaTable.sel_ne_zero hzero hr ?_
    rw [IsaRow.sel, hop, hf3]
    decide
  · intro s hs ht hin hb
    obtain ⟨-, -, -, -, hzero⟩ := (IsaTable.valid_iff s.cfg.isa).mp ht
    exact step_of_fetch_error hs (fetch_zero hzero hin hb)

end Sys2Proof
end

section
/-! PROOFS. The statements about the ALU instructions (spec 40_alu.md R140 to R163). The result of every ALU operation is
said once as a number, and what the end of an ALU instruction leaves of the state is said once for each common form; the
statement about an instruction is its operation put into its form. -/

namespace Sys2Proof.Machine

/-! ## The ALU's results as numbers (R140 to R142) -/

/-- The number an ALU operation gives for the numbers of its operands, division by zero apart; `alu_eq_ok` ties it to the
model's ALU. -/
def AluOp.number (op : AluOp) (a b : Nat) : Nat :=
  match op with
  | .add => (a + b) % 256
  | .sub => (a + 256 - b) % 256
  | .mul => (a * b) % 256
  | .div => a / b
  | .and => a &&& b
  | .or => a ||| b
  | .xor => a ^^^ b
  | .sll => (a * 2 ^ b) % 256
  | .srl => a / 2 ^ b

/-- The ALU answers the operation's number in a byte, unless it divides by zero. -/
theorem alu_eq_ok (op : AluOp) (a b : Byte) (hdiv : op = .div → b.toNat ≠ 0) :
    ∃ v, alu op a b = .ok v ∧ v.toNat = op.number a.toNat b.toNat := by
  cases op with
  | add => exact ⟨a + b, rfl, BitVec.toNat_add a b⟩
  | sub =>
    refine ⟨a - b, rfl, ?_⟩
    have hb := b.isLt
    rw [BitVec.toNat_sub, AluOp.number]
    omega
  | mul => exact ⟨a * b, rfl, BitVec.toNat_mul a b⟩
  | div =>
    have hb : b ≠ 0 := fun h => hdiv rfl (h ▸ rfl)
    exact ⟨a / b, alu_div_ok a hb, BitVec.toNat_udiv⟩
  | and => exact ⟨a &&& b, rfl, BitVec.toNat_and a b⟩
  | or => exact ⟨a ||| b, rfl, BitVec.toNat_or a b⟩
  | xor => exact ⟨a ^^^ b, rfl, BitVec.toNat_xor a b⟩
  | sll =>
    refine ⟨a <<< b.toNat, rfl, ?_⟩
    rw [BitVec.toNat_shiftLeft, Nat.shiftLeft_eq, AluOp.number]
  | srl =>
    refine ⟨a >>> b.toNat, rfl, ?_⟩
    rw [BitVec.toNat_ushiftRight, Nat.shiftRight_eq_div_pow, AluOp.number]

/-! ## The frame of an ALU instruction -/

/-- Writing one register and going to next_pc changes nothing else (R33, R121). -/
theorem writeReg_nextPc_writesReg (s : State) (rd : Reg) (v : Byte) (len : Nat) :
    WritesReg s ((s.writeReg rd v).setPc (s.nextPc len)) rd v.toNat len := by
  refine ⟨?_, fun r hr => ?_, s.nextPc_toNat len, fun _ => rfl, rfl, rfl, ⟨rfl, rfl, rfl⟩, rfl, rfl, rfl, rfl, rfl, rfl⟩
  · rw [State.readReg_setPc, State.readReg_writeReg_same]
  · rw [State.readReg_setPc, State.readReg_writeReg_other s v hr]

/-- The end of an ALU instruction writes the operation's number to rd, unless it divides by zero. -/
theorem finishAlu_writesReg (op : AluOp) (rd : Reg) (a b : Byte) (len : Nat) (s : State)
    (hdiv : op = .div → b.toNat ≠ 0) :
    WritesReg s (s.finishAlu rd (alu op a b) len) rd (op.number a.toNat b.toNat) len := by
  obtain ⟨v, halu, hv⟩ := alu_eq_ok op a b hdiv
  rw [halu, finishAlu_ok, ← hv]
  exact writeReg_nextPc_writesReg s rd v len

/-! ## The three common forms (R143, R153, R161) -/

theorem aluReg_writesReg (op : AluOp) (rd rs1 rs2 : Reg) (s : State)
    (hdiv : op = .div → (s.readReg rs2).toNat ≠ 0) :
    WritesReg s (aluReg op rd rs1 rs2 s) rd (op.number (s.readReg rs1).toNat (s.readReg rs2).toNat) 3 :=
  finishAlu_writesReg op rd (s.readReg rs1) (s.readReg rs2) 3 s hdiv

theorem aluImmediate_writesReg (op : AluOp) (rd rs1 : Reg) (imm : Word16) (s : State)
    (hdiv : op = .div → imm.toNat % 256 ≠ 0) :
    WritesReg s (aluImmediate op rd rs1 imm s) rd (op.number (s.readReg rs1).toNat (imm.toNat % 256)) 4 := by
  rw [← aluImm_toNat] at hdiv ⊢
  exact finishAlu_writesReg op rd (s.readReg rs1) (aluImm imm) 4 s hdiv

theorem aluShift_writesReg (op : AluOp) (rd rs1 : Reg) (shamt : Byte) (s : State)
    (hdiv : op = .div → shamt.toNat % 32 ≠ 0) :
    WritesReg s (aluShift op rd rs1 shamt s) rd (op.number (s.readReg rs1).toNat (shamt.toNat % 32)) 4 := by
  rw [← shiftAmount_toNat] at hdiv ⊢
  exact finishAlu_writesReg op rd (s.readReg rs1) (shiftAmount shamt) 4 s hdiv

/-! ## The statements -/

/-- Settles O11: ADD, SUB and MUL are the R-type form with the sum, the difference and the product. -/
theorem addSubMulResult : Obligations.AddSubMulResult := by
  unfold Obligations.AddSubMulResult
  intro rd rs1 rs2 s
  exact ⟨⟨⟨rfl, rfl⟩, _, rfl, aluReg_writesReg .add rd rs1 rs2 s nofun⟩,
    ⟨⟨rfl, rfl⟩, _, rfl, aluReg_writesReg .sub rd rs1 rs2 s nofun⟩,
    ⟨rfl, rfl⟩, _, rfl, aluReg_writesReg .mul rd rs1 rs2 s nofun⟩

/-- Settles O12: AND, OR and XOR are the R-type form with the bitwise operations. -/
theorem andOrXorResult : Obligations.AndOrXorResult := by
  unfold Obligations.AndOrXorResult
  intro rd rs1 rs2 s
  exact ⟨⟨⟨rfl, rfl⟩, _, rfl, aluReg_writesReg .and rd rs1 rs2 s nofun⟩,
    ⟨⟨rfl, rfl⟩, _, rfl, aluReg_writesReg .or rd rs1 rs2 s nofun⟩,
    ⟨rfl, rfl⟩, _, rfl, aluReg_writesReg .xor rd rs1 rs2 s nofun⟩

/-- Settles O16: ADDI, SUBI and MULI are the I-type form, which masks the immediate to its low byte. -/
theorem addiSubiMuliResult : Obligations.AddiSubiMuliResult := by
  unfold Obligations.AddiSubiMuliResult
  intro rd rs1 imm s
  exact ⟨⟨⟨rfl, rfl⟩, _, rfl, aluImmediate_writesReg .add rd rs1 imm s nofun⟩,
    ⟨⟨rfl, rfl⟩, _, rfl, aluImmediate_writesReg .sub rd rs1 imm s nofun⟩,
    ⟨rfl, rfl⟩, _, rfl, aluImmediate_writesReg .mul rd rs1 imm s nofun⟩

/-- Settles O17: ANDI, ORI and XORI are the I-type form with the bitwise operations. -/
theorem andiOriXoriResult : Obligations.AndiOriXoriResult := by
  unfold Obligations.AndiOriXoriResult
  intro rd rs1 imm s
  exact ⟨⟨⟨rfl, rfl⟩, _, rfl, aluImmediate_writesReg .and rd rs1 imm s nofun⟩,
    ⟨⟨rfl, rfl⟩, _, rfl, aluImmediate_writesReg .or rd rs1 imm s nofun⟩,
    ⟨rfl, rfl⟩, _, rfl, aluImmediate_writesReg .xor rd rs1 imm s nofun⟩

/-- Settles O18: SLLI and SRLI are the shift-immediate form, which masks the amount to five bits. -/
theorem shiftImmediateResult : Obligations.ShiftImmediateResult := by
  unfold Obligations.ShiftImmediateResult
  intro rd rs1 shamt s
  exact ⟨⟨⟨rfl, rfl⟩, _, rfl, aluShift_writesReg .sll rd rs1 shamt s nofun⟩,
    ⟨rfl, rfl⟩, _, rfl, aluShift_writesReg .srl rd rs1 shamt s nofun⟩

end Sys2Proof.Machine
end

section
/-! PROOFS. The statements about the upper-immediate instructions (spec 41_upper_imm.md R180, R181). Both write one register
and go to next_pc, so each is a value put into `writeReg_nextPc_writesReg`. -/

namespace Sys2Proof.Machine

/-! ## AUIPC's value (R181) -/

/-- R181's first form: the source's formula on exact integers. -/
theorem auipcValue_toNat_exact (p imm : Word16) :
    (auipcValue p imm).toNat = (p.toNat + imm.toNat * 256) / 256 % 256 := by
  rw [auipcValue_toNat, Nat.add_mul_div_right _ _ (by decide)]

/-- R181's second form: the sum of next_pc's high byte and the immediate's low byte. -/
theorem auipcValue_toNat_bytes (p imm : Word16) :
    (auipcValue p imm).toNat = (p.toNat / 256 + imm.toNat % 256) % 256 := by
  rw [auipcValue_toNat, Nat.add_mod_mod]

/-! ## The statements -/

/-- Settles O19: LUI writes the immediate's upper byte, which is its quotient by 256. -/
theorem luiResult : Obligations.LuiResult := by
  unfold Obligations.LuiResult
  intro rd imm s
  refine ⟨⟨rfl, rfl⟩, _, rfl, ?_⟩
  rw [← luiValue_toNat]
  exact writeReg_nextPc_writesReg s rd (luiValue imm) 4

/-- Settles O20: the byte that AUIPC writes has both forms of R181, each taken at next_pc. -/
theorem auipcResult : Obligations.AuipcResult := by
  unfold Obligations.AuipcResult
  intro rd imm s
  refine ⟨⟨rfl, rfl⟩, _, rfl, ?_, ?_⟩
  · rw [← s.nextPc_toNat 4, ← auipcValue_toNat_exact]
    exact writeReg_nextPc_writesReg s rd (auipcValue (s.nextPc 4) imm) 4
  · rw [← s.nextPc_toNat 4, ← auipcValue_toNat_bytes, State.readReg_setPc, State.readReg_writeReg_same]

end Sys2Proof.Machine
end

section
/-! PROOFS. The statement about SB (spec 42_load_store.md R190, R193). What the end of a store leaves
of the state is said once for any number of bytes; what a store adds to it is the bytes that its value reads back as. -/

namespace Sys2Proof.Machine

/-! ## The frame of a store (R190, R74) -/

/-- The end of a store writes the bytes its value reads back as, moves the pc past the store, and changes nothing else. -/
theorem finishStore_storesBytes (s : State) (rs1 : Reg) (imm : Word16) (v : Word32) (bs : List Byte)
    (hbytes : ∀ i, (h : i < bs.length) →
      (s.finishStore rs1 imm bs.length v).mem.rd8 (dataAddr s.cfg (s.readReg rs1) imm i) = bs[i]) :
    StoresBytes s (s.finishStore rs1 imm bs.length v) rs1 imm bs := by
  have hother : ∀ a, (∀ i, i < bs.length → a ≠ dataAddr s.cfg (s.readReg rs1) imm i) →
      (s.finishStore rs1 imm bs.length v).mem.rd8 a = s.mem.rd8 a := fun a ha =>
    Memory.rd8_writeData_other s.mem s.cfg (s.readReg rs1) imm bs.length v ha
  have hrest : SameRest s (s.finishStore rs1 imm bs.length v) :=
    ⟨rfl, rfl, ⟨rfl, rfl, rfl⟩, rfl, rfl, rfl, rfl, rfl, rfl⟩
  exact ⟨hbytes, hother, s.nextPc_toNat 4, fun _ => rfl, hrest⟩

/-! ## One byte (R193) -/

/-- Byte 0 of a zero-extended byte is the byte. -/
theorem setWidth_extractLsb'_byte0 (b : Byte) : (b.setWidth 32).extractLsb' 0 8 = b := by
  rw [← BitVec.setWidth_eq_extractLsb' (by decide), BitVec.setWidth_setWidth_of_le b (by decide), BitVec.setWidth_eq]

/-- Storing one byte reads back as that byte, in a memory of any size. -/
theorem rd8_finishStore_one {s : State} (h : s.mem.wf = true) (rs1 : Reg) (imm : Word16) (b : Byte) :
    (s.finishStore rs1 imm 1 (b.setWidth 32)).mem.rd8 (dataAddr s.cfg (s.readReg rs1) imm 0) = b := by
  rw [State.finishStore, State.setPc_mem, State.setMem_mem, Memory.writeData_one, setWidth_extractLsb'_byte0]
  exact Memory.rd8_wr8_same h _ b

/-! ## The statements -/

/-- Settles O22: SB is the end of a store with one byte, and byte 0 of the register's byte zero-extended is that byte. -/
theorem sbStoresOneByte : Obligations.SbStoresOneByte := by
  unfold Obligations.SbStoresOneByte
  intro rs1 rs2 imm s hwf
  refine ⟨⟨rfl, rfl⟩, _, rfl, rfl, ?_⟩
  refine finishStore_storesBytes s rs1 imm ((s.readReg rs2).setWidth 32) [s.readReg rs2] fun i hi => ?_
  obtain rfl : i = 0 := Nat.lt_one_iff.mp hi
  exact rd8_finishStore_one hwf rs1 imm (s.readReg rs2)

end Sys2Proof.Machine
end

section
/-! PROOFS. The statements about HALT and the reserved state (spec 44_system.md R230, R232, 60_exceptions.md R256). A
replacement of the reserved state commutes with each part of a step: with the named updates, with the fetch, with every
instruction, and so with the step itself. -/

namespace Sys2Proof.Machine

/-! ## HALT (R230) -/

/-- A write of the run state changes nothing else. -/
theorem setRun_endsRun (s : State) (r : RunState) : EndsRun s (s.setRun r) r :=
  ⟨rfl, rfl, fun _ => rfl, fun _ => rfl, rfl, ⟨rfl, rfl, rfl⟩, rfl, rfl, rfl, rfl, rfl, rfl⟩

/-- Settles O33: HALT is a write of the run state. -/
theorem haltResult : Obligations.HaltResult := by
  unfold Obligations.HaltResult
  intro s
  exact ⟨s.setRun .halted, rfl, setRun_endsRun s .halted⟩

/-! ## The reserved state is not read (R44 to R46, R232) -/

section ReplacedReservedState

variable (s : State) (index : Word16) (stack : Vector Word16 16) (sp timer0 timer1 : Byte)

@[simp] theorem State.withReserved_run : (s.withReserved index stack sp timer0 timer1).run = s.run := rfl

@[simp] theorem State.withReserved_steps : (s.withReserved index stack sp timer0 timer1).steps = s.steps := rfl

@[simp] theorem State.withReserved_cfg : (s.withReserved index stack sp timer0 timer1).cfg = s.cfg := rfl

theorem recordFetch_withReserved (w : Word32) :
    (s.withReserved index stack sp timer0 timer1).recordFetch w =
      (s.recordFetch w).withReserved index stack sp timer0 timer1 := rfl

/-- Whether a step is counted depends on the run state alone. -/
theorem countStep_withReserved :
    (s.withReserved index stack sp timer0 timer1).countStep =
      s.countStep.withReserved index stack sp timer0 timer1 := by
  by_cases hrun : s.run = .refused
  · simp only [State.countStep, State.withReserved_run, hrun, ↓reduceIte]
  · simp only [State.countStep, State.withReserved_run, hrun, ↓reduceIte]
    rfl

theorem finishAlu_withReserved (rd : Reg) (r : AluResult) (len : Nat) :
    (s.withReserved index stack sp timer0 timer1).finishAlu rd r len =
      (s.finishAlu rd r len).withReserved index stack sp timer0 timer1 := by
  cases r with
  | ok v => rfl
  | divZero => rfl

/-- A fetch reads pc, memory and the parameters, none of them reserved. -/
theorem fetch_withReserved : fetch (s.withReserved index stack sp timer0 timer1) = fetch s :=
  fetch_congr rfl rfl rfl

/-- No instruction reads the reserved state: an ALU instruction branches on its result, LW and SW on the register pair,
and every other instruction is updates alone. -/
theorem exec_withReserved (i : Instr) :
    exec i (s.withReserved index stack sp timer0 timer1) =
      mapNext (State.withReserved · index stack sp timer0 timer1) (exec i s) := by
  cases i with
  | add | sub | mul | div | and | or | xor | sll | srl | addi | subi | muli | divi | andi | ori | xori | slli | srli =>
    exact congrArg Host.Outcome.next (finishAlu_withReserved s index stack sp timer0 timer1 _ _ _)
  | lw r _ _ | sw _ r _ =>
    by_cases hpair : pairAllowed s.cfg r = true
    · simp only [exec, execLw, execSw, State.withReserved_cfg, hpair, ↓reduceIte]
      rfl
    · simp only [exec, execLw, execSw, State.withReserved_cfg, hpair]
      rfl
  | _ => rfl

/-- The ceiling, the fetch, the instruction and the count each leave the reserved state out. -/
theorem cycle_withReserved :
    cycle (s.withReserved index stack sp timer0 timer1) =
      mapNext (State.withReserved · index stack sp timer0 timer1) (cycle s) := by
  simp only [cycle, State.withReserved_cfg, State.withReserved_steps, fetch_withReserved]
  split
  case isTrue => rfl
  case isFalse =>
    cases fetch s with
    | error kind fetched => rfl
    | ok d w =>
      simp only [recordFetch_withReserved, exec_withReserved]
      cases exec (decodeFields w d).toInstr (s.recordFetch w) with
      | next t => exact congrArg Host.Outcome.next (countStep_withReserved t index stack sp timer0 timer1)
      | fault r => rfl
      | refused r => rfl

/-- A step from any state with other reserved state is the same step with that reserved state. -/
theorem step_withReserved :
    step (s.withReserved index stack sp timer0 timer1) =
      mapNext (State.withReserved · index stack sp timer0 timer1) (step s) := by
  simp only [step, stepAny, State.withReserved_run, State.withReserved_cfg, cycle_withReserved]
  cases s.run with
  | running => dsimp only; split_ifs <;> rfl
  | halted | faulted | ceilingReached | refused => rfl

end ReplacedReservedState

/-! ## The reserved state and the parameters are not written (R232, R256) -/

theorem recordFetch_sameInert (s : State) (w : Word32) : SameInert s (s.recordFetch w) := ⟨rfl, rfl, rfl, rfl, rfl, rfl⟩

theorem setRun_sameInert (s : State) (r : RunState) : SameInert s (s.setRun r) := ⟨rfl, rfl, rfl, rfl, rfl, rfl⟩

/-- No instruction writes the reserved state or the parameters. -/
theorem exec_sameInert {i : Instr} {s t : State} (h : exec i s = .next t) : SameInert s t := by
  obtain ⟨-, -, -, hindex, hstack, hsp, htimer0, htimer1, hcfg⟩ := exec_keeps h
  exact ⟨hindex, hstack, hsp, htimer0, htimer1, hcfg⟩

/-- Counting a step writes the step count alone. -/
theorem countStep_sameInert (s : State) : SameInert s s.countStep :=
  ⟨s.countStep_index, s.countStep_stack, s.countStep_sp, s.countStep_timer0, s.countStep_timer1, s.countStep_cfg⟩

theorem SameInert.trans {s t u : State} (hst : SameInert s t) (htu : SameInert t u) : SameInert s u := by
  obtain ⟨hindex, hstack, hsp, htimer0, htimer1, hcfg⟩ := hst
  obtain ⟨hindex', hstack', hsp', htimer0', htimer1', hcfg'⟩ := htu
  exact ⟨hindex'.trans hindex, hstack'.trans hstack, hsp'.trans hsp, htimer0'.trans htimer0, htimer1'.trans htimer1,
    hcfg'.trans hcfg⟩

/-- No step writes the reserved state or the parameters, however it ends. -/
theorem step_sameInert {s t : State} (h : step s = .next t) : SameInert s t := by
  obtain ⟨-, -, -, ⟨-, rfl⟩ | ⟨-, kind, w, -, rfl⟩ | ⟨-, d, w, u, -, hexec, rfl⟩⟩ := step_next_cases h
  · exact setRun_sameInert s .ceilingReached
  · exact (recordFetch_sameInert s w).trans (setRun_sameInert (s.recordFetch w) (.faulted kind))
  · exact (recordFetch_sameInert s w).trans ((exec_sameInert hexec).trans (countStep_sameInert u))

/-- Settles O47: the step commutes with replacing the reserved state, and keeps it. -/
theorem reservedStateIsInert : Obligations.ReservedStateIsInert := by
  unfold Obligations.ReservedStateIsInert
  exact ⟨step_withReserved, fun _ _ => step_sameInert⟩

end Sys2Proof.Machine
end

section
/-! PROOFS. The statements about the fatal errors (spec 60_exceptions.md R240 to R246). Only a fetch can end a run as
Faulted, so what such a step leaves is what taking the fetch's error leaves; and a selector that no row of the table has
makes the fetch raise UnknownInstruction. -/

namespace Sys2Proof

/-! ## Fetched bytes as a number (R41) -/

theorem leWord_one (b : Byte) : leWord [b] = b.setWidth 32 := by
  simp [leWord]

theorem leWord_one_toNat (b : Byte) : (leWord [b]).toNat = b.toNat := by
  rw [leWord_one, BitVec.toNat_setWidth_of_le (by decide)]

theorem leWord_two_toNat (b0 b1 : Byte) : (leWord [b0, b1]).toNat = b0.toNat + 256 * b1.toNat := by
  have hb0 : (b0.setWidth 32).toNat = b0.toNat := BitVec.toNat_setWidth_of_le (by decide)
  rw [leWord, leWord_one, toNat_or_shiftLeft b1 (by rw [hb0]; exact b0.isLt) (by decide), hb0]
  omega

/-! ## The classifier on bytes that no row has (R108, R112) -/

/-- A row with a byte's opcode and funct3 has the byte as its selector. -/
theorem IsaRow.sel_of_fields {r : IsaRow} {b : Byte} (hop : r.opcode = b.extractLsb' 3 5)
    (hf3 : r.funct3 = b.extractLsb' 0 3) : r.sel = b := by
  rw [IsaRow.sel, hop, hf3, selectorOf_extract]

/-- F4SEL holds exactly the selectors of the rows with a funct4 (R111). -/
theorem isFunct4Selector_iff (t : IsaTable) (b0 : Byte) :
    isFunct4Selector t b0 = true ↔ ∃ r ∈ t, r.funct4.isSome = true ∧ r.sel = b0 := by
  simp [isFunct4Selector]

/-- A byte0 that is no row's selector is not in F4SEL. -/
theorem isFunct4Selector_of_no_row {t : IsaTable} {b0 : Byte} (h : ∀ r ∈ t, r.sel ≠ b0) :
    isFunct4Selector t b0 = false := by
  rw [Bool.eq_false_iff, ne_eq, isFunct4Selector_iff]
  rintro ⟨r, hr, -, hsel⟩
  exact h r hr hsel

/-- The 2-key lookup finds nothing for a byte0 that is no row's selector. -/
theorem lookup2_of_no_row {t : IsaTable} {b0 : Byte} (h : ∀ r ∈ t, r.sel ≠ b0) :
    lookup2 t (b0.extractLsb' 3 5) (b0.extractLsb' 0 3) = none := by
  have hfind : (t.find? fun r =>
      r.funct4.isNone && r.opcode == b0.extractLsb' 3 5 && r.funct3 == b0.extractLsb' 0 3) = none := by
    rw [List.find?_eq_none]
    intro r hr hkeys
    obtain ⟨⟨-, hop⟩, hf3⟩ : (r.funct4 = none ∧ r.opcode = b0.extractLsb' 3 5) ∧ r.funct3 = b0.extractLsb' 0 3 := by
      simpa using hkeys
    exact h r hr (IsaRow.sel_of_fields hop hf3)
  rw [lookup2, hfind, Option.map_none, ite_self]

/-- The 3-key lookup finds nothing for a selector under which no row has the funct4. -/
theorem lookup3_of_no_row {t : IsaTable} {b0 : Byte} {f4 : BitVec 4} (h : ∀ r ∈ t, r.sel = b0 → r.funct4 ≠ some f4) :
    lookup3 t (b0.extractLsb' 3 5) (b0.extractLsb' 0 3) f4 = none := by
  have hfind : (t.find? fun r =>
      r.funct4 == some f4 && r.opcode == b0.extractLsb' 3 5 && r.funct3 == b0.extractLsb' 0 3) = none := by
    rw [List.find?_eq_none]
    intro r hr hkeys
    obtain ⟨⟨h4, hop⟩, hf3⟩ :
        (r.funct4 = some f4 ∧ r.opcode = b0.extractLsb' 3 5) ∧ r.funct3 = b0.extractLsb' 0 3 := by
      simpa using hkeys
    exact h r hr (IsaRow.sel_of_fields hop hf3) h4
  rw [lookup3, hfind, Option.map_none, ite_self]

/-- A byte0 that is no row's selector classifies to nothing, whatever follows it. -/
theorem classify_of_no_row {t : IsaTable} {b0 : Byte} (h : ∀ r ∈ t, r.sel ≠ b0) (b1 : Option Byte) :
    classify t b0 b1 = none := by
  simp only [classify, isFunct4Selector_of_no_row h]
  exact lookup2_of_no_row h

/-- A funct4 selector whose byte1 has no row's low nibble classifies to nothing. -/
theorem classify_of_no_funct4_row {t : IsaTable} {b0 b1 : Byte} (hsel : isFunct4Selector t b0 = true)
    (h : ∀ r ∈ t, r.sel = b0 → r.funct4 ≠ some (b1.extractLsb' 0 4)) : classify t b0 (some b1) = none := by
  simp only [classify, hsel]
  exact lookup3_of_no_row h

end Sys2Proof

namespace Sys2Proof.Machine

/-! ## Only a fetch raises a fatal error (R241, R246) -/

/-- No instruction makes a run Faulted: it keeps the run state, halts or is refused. -/
theorem exec_faulted {i : Instr} {s t : State} {kind : ErrorKind} (h : exec i s = .next t)
    (hf : t.run = .faulted kind) : s.run = .faulted kind := by
  rcases exec_run h with hrun | ⟨hrun, -, -⟩ | ⟨hrun, -, -, -⟩
  · rwa [← hrun]
  · rw [hrun] at hf; cases hf
  · rw [hrun] at hf; cases hf

/-- A step that ends Faulted took an error that its fetch raised, and nothing else was done to the state. -/
theorem step_faulted {s t : State} {kind : ErrorKind} (h : step s = .next t) (hf : t.run = .faulted kind) :
    ∃ w, fetch s = .error kind w ∧ t = s.raiseFatal kind w := by
  obtain ⟨hrun, -, -, ⟨-, rfl⟩ | ⟨-, k, w, hfetch, rfl⟩ | ⟨-, d, w, u, -, hexec, rfl⟩⟩ := step_next_cases h
  · rw [State.setRun_run] at hf; cases hf
  · rw [State.raiseFatal_run] at hf; cases hf
    exact ⟨w, hfetch, rfl⟩
  · rw [State.countStep_run] at hf
    have hold := exec_faulted hexec hf
    rw [State.recordFetch_run, hrun] at hold; cases hold

/-- A step never ends Faulted with a kind that the fetch does not raise (R240). -/
theorem step_faulted_kind {s t : State} {kind : ErrorKind} (h : step s = .next t) (hf : t.run = .faulted kind) :
    kind = .unknownInstruction ∨ ∃ a, kind = .pcOutOfBounds a := by
  obtain ⟨w, hfetch, -⟩ := step_faulted h hf
  exact (fetch_error_kind hfetch).imp_right fun ⟨a, ha, _⟩ => ⟨a, ha⟩

/-- Settles O44: the error was raised by the fetch, and taking it writes only run, lastPC and lastWord. -/
theorem fatalFaultWithholdsTheStep : Obligations.FatalFaultWithholdsTheStep := by
  unfold Obligations.FatalFaultWithholdsTheStep
  intro s t kind h hf
  obtain ⟨w, -, rfl⟩ := step_faulted h hf
  rfl

/-- Settles O45: a fetch raises neither reserved kind nor DivisionByZero, and no step writes the stack. -/
theorem reservedErrorsAreNeverRaised : Obligations.ReservedErrorsAreNeverRaised := by
  unfold Obligations.ReservedErrorsAreNeverRaised
  intro s t h
  obtain ⟨-, hstack, hsp, -, -, -⟩ := step_sameInert h
  refine ⟨fun hf => ?_, fun hf => ?_, fun hf => ?_, hstack, hsp⟩
  · simpa using step_faulted_kind h hf
  · simpa using step_faulted_kind h hf
  · simpa using step_faulted_kind h hf

/-! ## UnknownInstruction (R241) -/

/-- A byte0 outside F4SEL that classifies to nothing raises UnknownInstruction with that byte. -/
theorem fetch_of_unclassified {s : State} (hin : inRegion s.cfg s.pc.toNat = true)
    (hsel : isFunct4Selector s.cfg.isa (s.mem.rd8 s.pc.toNat) = false)
    (hnone : classify s.cfg.isa (s.mem.rd8 s.pc.toNat) none = none) :
    fetch s = .error .unknownInstruction (leWord [s.mem.rd8 s.pc.toNat]) := by
  simp [fetch, hin, hsel, hnone, fetchWhole]

/-- A funct4 selector that classifies to nothing with its byte1 raises UnknownInstruction with the two bytes. -/
theorem fetch_of_unclassified_funct4 {s : State} (hin : inRegion s.cfg s.pc.toNat = true)
    (hin1 : inRegion s.cfg (s.pc.toNat + 1) = true)
    (hsel : isFunct4Selector s.cfg.isa (s.mem.rd8 s.pc.toNat) = true)
    (hnone : classify s.cfg.isa (s.mem.rd8 s.pc.toNat) (some (s.mem.rd8 (s.pc.toNat + 1))) = none) :
    fetch s = .error .unknownInstruction (leWord [s.mem.rd8 s.pc.toNat, s.mem.rd8 (s.pc.toNat + 1)]) := by
  simp [fetch, hin, hin1, hsel, hnone, fetchWhole]

/-- Settles O41: in both cases the classifier finds no row, and the fetch's error is taken with the bytes read so far. -/
theorem unknownInstructionIsRaised : Obligations.UnknownInstructionIsRaised := by
  unfold Obligations.UnknownInstructionIsRaised
  refine ⟨fun s hs hin hrows => ?_, fun s hs hin hin1 hsel hrows => ?_, fun _ _ _ _ => exec_faulted⟩
  · rw [← leWord_one_toNat]
    exact step_of_fetch_error hs
      (fetch_of_unclassified hin (isFunct4Selector_of_no_row hrows) (classify_of_no_row hrows none))
  · rw [← leWord_two_toNat]
    have hf4sel := (isFunct4Selector_iff _ _).mpr hsel
    exact step_of_fetch_error hs
      (fetch_of_unclassified_funct4 hin hin1 hf4sel (classify_of_no_funct4_row hf4sel hrows))

end Sys2Proof.Machine
end

section
/-! PROOFS. The statements about the decoder as the inverse of the encoder (spec 30_encoding.md R105 to R118, R127). The
classifier is inverted once: what it finds is a row of the table. A decoded word is then, its don't-care bits cleared, the
word that the encoder writes, and both directions of the round trip and the freedom of the don't-care bits follow. -/

namespace Sys2Proof

open Sys2Proof.Machine

/-! ## What the classifier finds (R112) -/

/-- What the 2-key lookup finds is a row with no funct4 and these keys. -/
theorem lookup2_some {t : IsaTable} {op : BitVec 5} {f3 : BitVec 3} {d : Descriptor} (h : lookup2 t op f3 = some d) :
    ∃ r ∈ t, d = r.descriptor ∧ r.sel = selectorOf op f3 ∧ r.funct4 = none := by
  unfold lookup2 at h
  split at h
  · cases h
  · obtain ⟨r, hfind, rfl⟩ := Option.map_eq_some_iff.mp h
    obtain ⟨⟨h4, rfl⟩, rfl⟩ : (r.funct4 = none ∧ r.opcode = op) ∧ r.funct3 = f3 := by
      simpa using List.find?_some hfind
    exact ⟨r, List.mem_of_find?_eq_some hfind, rfl, rfl, h4⟩

/-- What the 3-key lookup finds is a row with these keys. -/
theorem lookup3_some {t : IsaTable} {op : BitVec 5} {f3 : BitVec 3} {f4 : BitVec 4} {d : Descriptor}
    (h : lookup3 t op f3 f4 = some d) :
    ∃ r ∈ t, d = r.descriptor ∧ r.sel = selectorOf op f3 ∧ r.funct4 = some f4 := by
  unfold lookup3 at h
  split at h
  · cases h
  · obtain ⟨r, hfind, rfl⟩ := Option.map_eq_some_iff.mp h
    obtain ⟨⟨h4, rfl⟩, rfl⟩ : (r.funct4 = some f4 ∧ r.opcode = op) ∧ r.funct3 = f3 := by
      simpa using List.find?_some hfind
    exact ⟨r, List.mem_of_find?_eq_some hfind, rfl, rfl, h4⟩

/-- What the classifier finds, in any table, is the descriptor of a row with byte0 as its selector and, if the row has a
funct4, the low nibble of byte1. -/
theorem classify_some {t : IsaTable} {b0 : Byte} {b1 : Option Byte} {d : Descriptor} (h : classify t b0 b1 = some d) :
    ∃ r ∈ t, d = r.descriptor ∧ r.sel = b0 ∧
      (r.funct4 = none ∨ ∃ b : Byte, b1 = some b ∧ r.funct4 = some (b.extractLsb' 0 4)) := by
  simp only [classify] at h
  split at h
  · cases b1 with
    | none => cases h
    | some b =>
      obtain ⟨r, hr, hd, hsel, h4⟩ := lookup3_some h
      exact ⟨r, hr, hd, hsel.trans (selectorOf_extract b0), .inr ⟨b, rfl, h4⟩⟩
  · obtain ⟨r, hr, hd, hsel, h4⟩ := lookup2_some h
    exact ⟨r, hr, hd, hsel.trans (selectorOf_extract b0), .inl h4⟩

/-- A row of a legal table is found by its selector and any byte1 that has its funct4, if it has one. -/
theorem classify_row {t : IsaTable} (ht : IsaTable.valid t = true) {r : IsaRow} (hr : r ∈ t) (b1 : Byte)
    (h4 : r.funct4 = none ∨ r.funct4 = some (b1.extractLsb' 0 4)) : classify t r.sel (some b1) = some r.descriptor := by
  rcases h4 with h4 | h4
  · exact classify_row_of_none ht hr h4 (some b1)
  · exact classify_row_of_some ht hr h4

/-- Settles O5: the first two clauses are the lookups of a row, the third is the classifier's inversion. -/
theorem classifierFindsExactlyTheRows : Obligations.ClassifierFindsExactlyTheRows := by
  unfold Obligations.ClassifierFindsExactlyTheRows
  intro t ht
  exact ⟨fun r hr => classify_row ht hr, fun r hr h4 => classify_row_of_none ht hr h4 none,
    fun _ _ _ => classify_some⟩

/-! ## Bytes of a little-endian word (R9, R71) -/

/-- Byte `k` of a little-endian value is the `k`-th byte given, or 0. -/
theorem leWord_extractLsb' (bs : List Byte) {k : Nat} (hk : k < 4) :
    (leWord bs).extractLsb' (8 * k) 8 = bs.getD k 0 := by
  apply BitVec.eq_of_getLsbD_eq
  intro j hj
  have hdiv : (8 * k + j) / 8 = k := by omega
  have hmod : (8 * k + j) % 8 = j := by omega
  rw [BitVec.getLsbD_extractLsb', leWord_getLsbD _ _ (by omega), hdiv, hmod]
  simp [hj]

/-- The bytes of an instruction word are its byte0, its byte1 and those after. -/
theorem leBytes_succ_succ (n : Nat) (w : Word32) :
    leBytes (n + 2) w = w.extractLsb' 0 8 :: w.extractLsb' 8 8 :: leBytes n (w >>> 8 >>> 8) := by
  have h0 := leBytes_getD (n + 2) 0 w (by omega)
  have h1 := leBytes_getD (n + 2) 1 w (by omega)
  simp only [leBytes, List.getD_cons_zero, List.getD_cons_succ] at h0 h1 ⊢
  rw [h0, h1]

/-! ## A table's row of a mnemonic (R104) -/

/-- A legal table has no other row of a row's mnemonic. -/
theorem IsaTable.row_eq_of_mem {t : IsaTable} (h : IsaTable.complete t = true) {r : IsaRow} (hr : r ∈ t) :
    IsaTable.row t r.mnemonic = r := by
  obtain ⟨hrow, hm⟩ := IsaTable.row_mem h r.mnemonic
  simp only [IsaTable.complete, List.all_eq_true] at h
  have hlen : (t.filter fun q => q.mnemonic == r.mnemonic).length = 1 := by
    simpa using h r.mnemonic (Mnemonic.mem_all r.mnemonic)
  obtain ⟨q, hq⟩ := List.length_eq_one_iff.mp hlen
  have honly : ∀ p ∈ t, p.mnemonic = r.mnemonic → p = q := fun p hp hpm => by
    rw [← List.mem_singleton, ← hq, List.mem_filter]
    exact ⟨hp, by simpa using hpm⟩
  rw [honly _ hrow hm, honly r hr rfl]

/-! ## An instruction and its operands (R103, R122) -/

open Laws in
/-- An instruction is what its mnemonic and its operands stand for. -/
theorem Instr.ofOperands_operands (i : Instr) : Instr.ofOperands i.mnemonic i.operands = i :=
  match i with
  | .add rd rs1 rs2 => OperandsRoundTrip.add rd rs1 rs2
  | .sub rd rs1 rs2 => OperandsRoundTrip.sub rd rs1 rs2
  | .mul rd rs1 rs2 => OperandsRoundTrip.mul rd rs1 rs2
  | .div rd rs1 rs2 => OperandsRoundTrip.div rd rs1 rs2
  | .and rd rs1 rs2 => OperandsRoundTrip.and rd rs1 rs2
  | .or rd rs1 rs2 => OperandsRoundTrip.or rd rs1 rs2
  | .xor rd rs1 rs2 => OperandsRoundTrip.xor rd rs1 rs2
  | .sll rd rs1 rs2 => OperandsRoundTrip.sll rd rs1 rs2
  | .srl rd rs1 rs2 => OperandsRoundTrip.srl rd rs1 rs2
  | .addi rd rs1 imm => OperandsRoundTrip.addi rd rs1 imm
  | .subi rd rs1 imm => OperandsRoundTrip.subi rd rs1 imm
  | .muli rd rs1 imm => OperandsRoundTrip.muli rd rs1 imm
  | .divi rd rs1 imm => OperandsRoundTrip.divi rd rs1 imm
  | .andi rd rs1 imm => OperandsRoundTrip.andi rd rs1 imm
  | .ori rd rs1 imm => OperandsRoundTrip.ori rd rs1 imm
  | .xori rd rs1 imm => OperandsRoundTrip.xori rd rs1 imm
  | .slli rd rs1 shamt => OperandsRoundTrip.slli rd rs1 shamt
  | .srli rd rs1 shamt => OperandsRoundTrip.srli rd rs1 shamt
  | .lui rd imm => OperandsRoundTrip.lui rd imm
  | .auipc rd imm => OperandsRoundTrip.auipc rd imm
  | .lb rd rs1 imm => OperandsRoundTrip.lb rd rs1 imm
  | .lh rd rs1 imm => OperandsRoundTrip.lh rd rs1 imm
  | .lw rd rs1 imm => OperandsRoundTrip.lw rd rs1 imm
  | .sb rs1 rs2 imm => OperandsRoundTrip.sb rs1 rs2 imm
  | .sh rs1 rs2 imm => OperandsRoundTrip.sh rs1 rs2 imm
  | .sw rs1 rs2 imm => OperandsRoundTrip.sw rs1 rs2 imm
  | .beq rs1 rs2 imm => OperandsRoundTrip.beq rs1 rs2 imm
  | .bne rs1 rs2 imm => OperandsRoundTrip.bne rs1 rs2 imm
  | .blt rs1 rs2 imm => OperandsRoundTrip.blt rs1 rs2 imm
  | .bgt rs1 rs2 imm => OperandsRoundTrip.bgt rs1 rs2 imm
  | .ble rs1 rs2 imm => OperandsRoundTrip.ble rs1 rs2 imm
  | .bge rs1 rs2 imm => OperandsRoundTrip.bge rs1 rs2 imm
  | .jal rd imm => OperandsRoundTrip.jal rd imm
  | .jalr rd rs1 imm => OperandsRoundTrip.jalr rd rs1 imm
  | .halt => OperandsRoundTrip.halt

/-- The 5-bit mask keeps a shift amount below 32. -/
theorem shiftAmount_of_lt {shamt : Byte} (h : shamt.toNat < 32) : shiftAmount shamt = shamt := by
  apply BitVec.eq_of_toNat_eq
  rw [shiftAmount_toNat, Nat.mod_eq_of_lt h]

/-- Masking a shift amount twice is masking it once (R98). -/
theorem shiftAmount_shiftAmount (shamt : Byte) : shiftAmount (shiftAmount shamt) = shiftAmount shamt :=
  shiftAmount_of_lt (by rw [shiftAmount_toNat]; omega)

/-- The decoder gives back the operands of a well-formed instruction unchanged. -/
theorem maskedOperands_of_wf {i : Instr} (h : i.wf = true) : maskedOperands i = i.operands := by
  cases i with
  | slli rd rs1 shamt | srli rd rs1 shamt =>
    have hlt : shamt.toNat < 32 := of_decide_eq_true h
    exact congrArg (fun v : Byte => OperandFields.mk rd rs1 0 (v.setWidth 20)) (shiftAmount_of_lt hlt)
  | _ => rfl

/-- A decoded record stands for the instruction of its descriptor's mnemonic and its operands. -/
theorem toInstr_decodeFields (w : Word32) (d : Descriptor) :
    (decodeFields w d).toInstr = Instr.ofOperands d.mnemonic (decodeFields w d).operands := by
  rw [DecodedInstruction.toInstr, decodeFields_desc]

@[simp] theorem toInstr_decodeFields_mnemonic (w : Word32) (d : Descriptor) :
    (decodeFields w d).toInstr.mnemonic = d.mnemonic := by
  rw [toInstr_decodeFields, Instr.ofOperands_mnemonic]

/-- What a descriptor decodes to has the descriptor's length, if the classifier found it (R113). -/
theorem len_toInstr_of_classify {t : IsaTable} {b0 : Byte} {b1 : Option Byte} {d : Descriptor}
    (h : classify t b0 b1 = some d) (w : Word32) : (decodeFields w d).toInstr.len = d.lenBytes := by
  obtain ⟨r, -, rfl, -⟩ := classify_some h
  rw [Instr.len, toInstr_decodeFields_mnemonic, IsaRow.descriptor_lenBytes]
  rfl

/-- The classifier finds lengths of 3 and 4 bytes only (R90). -/
theorem lenBytes_cases_of_classify {t : IsaTable} {b0 : Byte} {b1 : Option Byte} {d : Descriptor}
    (h : classify t b0 b1 = some d) : d.lenBytes = 3 ∨ d.lenBytes = 4 := by
  rw [← len_toInstr_of_classify h 0]
  exact Instr.len_cases _

/-- The decoder's operands of an encoded word are the instruction's, a shift amount after its mask. -/
theorem operands_decodeFields_encodeWord (t : IsaTable) (i : Instr) {d : Descriptor}
    (hd : d.format = i.mnemonic.format) : (decodeFields (encodeWord t i) d).operands = maskedOperands i :=
  operands_decodeFields_packWord i _ _ hd

/-! ## The decoder after the encoder (R118, R127) -/

/-- Bytes that classify and hold the whole instruction decode to it (R112, R113, R116). -/
theorem decode_of_classify {t : IsaTable} {b0 b1 : Byte} {bs : List Byte} {d : Descriptor}
    (hd : classify t b0 (some b1) = some d) (hlen : d.lenBytes ≤ (b0 :: b1 :: bs).length) :
    decode t (b0 :: b1 :: bs) =
      .ok ((decodeFields (leWord ((b0 :: b1 :: bs).take d.lenBytes)) d).toInstr, (b0 :: b1 :: bs).drop d.lenBytes) := by
  rw [decode]
  simp only [List.isEmpty_cons, Bool.and_false, List.head?_cons, hd, Nat.not_lt.mpr hlen, ↓reduceIte]
  rfl

/-- An encoded instruction begins with byte0 and byte1 of its word. -/
theorem encode_eq_cons (t : IsaTable) (i : Instr) :
    ∃ bs, encode t i = (encodeWord t i).extractLsb' 0 8 :: (encodeWord t i).extractLsb' 8 8 :: bs := by
  obtain ⟨n, hn⟩ : ∃ n, i.len = n + 2 := ⟨i.len - 2, by have := i.len_cases; omega⟩
  exact ⟨_, by rw [encode, hn, leBytes_succ_succ]⟩

/-- The little-endian value of an encoded instruction's bytes is its word. -/
theorem leWord_encode (t : IsaTable) (i : Instr) : leWord (encode t i) = encodeWord t i := by
  refine leWord_leBytes _ _ fun j hj => packWord_high _ _ _ _ j ?_
  rwa [Format.bits_eq]

/-- Settles O1: the encoded bytes classify to the row of the mnemonic, their value is the encoded word, and its fields are
the operands that were packed. -/
theorem decodeInvertsEncode : Obligations.DecodeInvertsEncode := by
  unfold Obligations.DecodeInvertsEncode
  intro t i rest ht hwf
  obtain ⟨-, hm⟩ := IsaTable.row_mem ((IsaTable.valid_iff t).mp ht).1 i.mnemonic
  have hlen : (encode t i).length = (t.row i.mnemonic).descriptor.lenBytes := by
    rw [encode, leBytes_length, IsaRow.descriptor_lenBytes, hm, Instr.len]
  have htoInstr : (decodeFields (encodeWord t i) (t.row i.mnemonic).descriptor).toInstr = i := by
    rw [toInstr_decodeFields, operands_decodeFields_encodeWord t i (congrArg Mnemonic.format hm),
      maskedOperands_of_wf hwf]
    exact (congrArg (Instr.ofOperands · i.operands) hm).trans i.ofOperands_operands
  obtain ⟨bs, hbs⟩ := encode_eq_cons t i
  have hdecode := decode_of_classify (bs := bs ++ rest) (classify_encodeWord ht i) (by
    rw [← List.cons_append, ← List.cons_append, ← hbs, ← hlen, List.length_append]; omega)
  rw [← List.cons_append, ← List.cons_append, ← hbs, List.take_left' hlen, List.drop_left' hlen, leWord_encode,
    htoInstr] at hdecode
  exact hdecode

/-! ## The encoder after the decoder (R109, R127) -/

/-- The bits of a field of `k` bits whose lowest bit is at `lo`. -/
def fieldMask (lo k : Nat) : Word32 := (BitVec.allOnes k).setWidth 32 <<< lo

/-- A field of a word put back at its place is the word with its other bits cleared. -/
theorem placeField_extractLsb' (w : Word32) (lo k : Nat) :
    placeField lo (w.extractLsb' lo k) = w &&& fieldMask lo k := by
  apply BitVec.eq_of_getLsbD_eq
  intro j hj
  simp only [placeField, fieldMask, BitVec.getLsbD_shiftLeft, BitVec.getLsbD_setWidth, BitVec.getLsbD_extractLsb',
    BitVec.getLsbD_and, BitVec.getLsbD_allOnes]
  by_cases hlo : j < lo
  · simp [hlo]
  · have hj' : lo + (j - lo) = j := by omega
    simp [hlo, hj, hj', Bool.and_comm, show j - lo < 32 by omega]

/-- A register field put back at its place. -/
theorem placeReg_regField (w : Word32) (lo : Nat) : placeReg lo (regField lo w) = w &&& fieldMask lo 4 :=
  placeField_extractLsb' w lo 4

/-- Cutting the 20-bit immediate to a narrower field gives the field back. -/
theorem immField_extractLsb' {n : Nat} (w : BitVec n) {lo k m : Nat} (hm : m ≤ k) (hk : k ≤ 20) :
    ((w.extractLsb' lo k).setWidth 20).extractLsb' 0 m = w.extractLsb' lo m := by
  apply BitVec.eq_of_getLsbD_eq
  intro j hj
  simp [hj, show j < k by omega, show j < 20 by omega]

/-- The 16-bit immediate out of the 20-bit one. -/
theorem imm16Field_setWidth (w : Word32) : ((w.extractLsb' 16 16).setWidth 20).setWidth 16 = w.extractLsb' 16 16 := by
  rw [BitVec.setWidth_setWidth_of_le _ (by decide), BitVec.setWidth_eq]

/-- JAL's immediate, cut into its two parts again, gives the two fields (R96). -/
theorem imm20Field_extractLsb' (w : Word32) :
    ((w.extractLsb' 12 12).setWidth 20 ||| (w.extractLsb' 24 8).setWidth 20 <<< 12 : BitVec 20).extractLsb' 0 12 =
        w.extractLsb' 12 12 ∧
      ((w.extractLsb' 12 12).setWidth 20 ||| (w.extractLsb' 24 8).setWidth 20 <<< 12 : BitVec 20).extractLsb' 12 8 =
        w.extractLsb' 24 8 := by
  constructor <;> apply BitVec.eq_of_toNat_eq
  · rw [extractLsb'_toNat_div, imm20Field_toNat, extractLsb'_toNat_div]
    omega
  · rw [extractLsb'_toNat_div, imm20Field_toNat, extractLsb'_toNat_div]
    omega

/-- Packing the fields that the decoder reads from a word gives the word with its don't-care bits cleared (R109): each
field is the word under its mask, and the masks of a format's fields are together its care mask. -/
theorem packWord_decodeFields (w : Word32) (d : Descriptor) :
    packWord d.format (w.extractLsb' 0 8) (w.extractLsb' 8 4) (decodeFields w d).operands =
      w &&& careMask d.format := by
  cases hf : d.format <;>
    simp only [decodeFields, hf, DecodedInstruction.operands, packWord, placeReg_regField, imm16Field_setWidth,
      imm20Field_extractLsb', immField_extractLsb' w (show 5 ≤ 8 by decide) (show 8 ≤ 20 by decide),
      placeField_extractLsb', ← BitVec.and_or_distrib_left]
  case r | i | u | s | jImm | jReg | shiftImm | noOperand => rfl

/-- Only a format with a funct4 packs one. -/
theorem packWord_congr_funct4 {f : Format} (sel : Byte) {f4 f4' : BitVec 4} (o : OperandFields)
    (h : f.usesFunct4 = true → f4 = f4') : packWord f sel f4 o = packWord f sel f4' o := by
  cases f with
  | r | u | shiftImm => rw [h rfl]
  | i | s | jImm | jReg | noOperand => rfl

/-- An instruction's operands pack as those it was made of: what it drops of them, its format does not pack. -/
theorem packWord_ofOperands (m : Mnemonic) (sel : Byte) (f4 : BitVec 4) (o : OperandFields) :
    packWord m.format sel f4 (Instr.ofOperands m o).operands = packWord m.format sel f4 o := by
  have himm : ((o.imm.setWidth 16).setWidth 20 : BitVec 20).setWidth 16 = o.imm.setWidth 16 := by
    rw [BitVec.setWidth_setWidth_of_le _ (by decide), BitVec.setWidth_eq]
  have hshamt : ((o.imm.setWidth 8).setWidth 20 : BitVec 20).extractLsb' 0 5 = o.imm.extractLsb' 0 5 := by
    apply BitVec.eq_of_getLsbD_eq
    intro j hj
    simp [hj, show j < 8 by omega, show j < 20 by omega]
  cases m <;> simp only [Mnemonic.format, Instr.ofOperands, Instr.operands, packWord, himm, hshamt]

/-- The selector fields of a word are those of a row: byte0 is its selector, and the low nibble of byte1 its funct4, if it
has one (R91, R112). -/
def Selects (w : Word32) (r : IsaRow) : Prop :=
  w.extractLsb' 0 8 = r.sel ∧ (r.funct4 = none ∨ r.funct4 = some (w.extractLsb' 8 4))

/-- A word classifies to a row of its own selector fields. -/
theorem selects_of_classify {t : IsaTable} {w : Word32} {d : Descriptor}
    (h : classify t (w.extractLsb' 0 8) (some (w.extractLsb' 8 8)) = some d) :
    ∃ r ∈ t, d = r.descriptor ∧ Selects w r := by
  obtain ⟨r, hr, hd, hsel, h4⟩ := classify_some h
  refine ⟨r, hr, hd, hsel.symm, h4.imp_right ?_⟩
  rintro ⟨b, hb, h4⟩
  cases hb
  rw [h4, extractLsb'_extractLsb' w (by decide)]

/-- A word with the selector fields of a row of a legal table classifies to it. -/
theorem classify_of_selects {t : IsaTable} (ht : IsaTable.valid t = true) {r : IsaRow} (hr : r ∈ t) {w : Word32}
    (h : Selects w r) : classify t (w.extractLsb' 0 8) (some (w.extractLsb' 8 8)) = some r.descriptor := by
  obtain ⟨hsel, h4⟩ := h
  rw [hsel]
  refine classify_row ht hr _ ?_
  rwa [extractLsb'_extractLsb' w (by decide)]

/-- Encoding what a word decodes to gives the word with its don't-care bits cleared. -/
theorem encodeWord_toInstr_decodeFields {t : IsaTable} (ht : IsaTable.valid t = true) {r : IsaRow} (hr : r ∈ t)
    {w : Word32} (h : Selects w r) :
    encodeWord t (decodeFields w r.descriptor).toInstr = w &&& careMask r.mnemonic.format := by
  obtain ⟨hcomplete, -, -, hformat, -⟩ := (IsaTable.valid_iff t).mp ht
  obtain ⟨hsel, h4⟩ := h
  have hrow : t.row (decodeFields w r.descriptor).toInstr.mnemonic = r := by
    rw [toInstr_decodeFields_mnemonic]
    exact IsaTable.row_eq_of_mem hcomplete hr
  have hf4 : r.mnemonic.format.usesFunct4 = true → r.funct4.getD 0 = w.extractLsb' 8 4 := fun huses => by
    rcases h4 with h4 | h4
    · rw [← IsaTable.funct4_iff_format hformat hr, h4] at huses
      cases huses
    · rw [h4, Option.getD_some]
  calc encodeWord t (decodeFields w r.descriptor).toInstr
      = packWord r.mnemonic.format r.sel (r.funct4.getD 0) (decodeFields w r.descriptor).toInstr.operands := by
        rw [encodeWord, hrow, toInstr_decodeFields_mnemonic]
        rfl
    _ = packWord r.mnemonic.format r.sel (r.funct4.getD 0) (decodeFields w r.descriptor).operands := by
        rw [toInstr_decodeFields]
        exact packWord_ofOperands r.mnemonic _ _ _
    _ = packWord r.mnemonic.format (w.extractLsb' 0 8) (w.extractLsb' 8 4) (decodeFields w r.descriptor).operands := by
        rw [hsel]
        exact packWord_congr_funct4 _ _ hf4
    _ = w &&& careMask r.mnemonic.format := packWord_decodeFields w r.descriptor

/-- Bytes that decode classify, hold the whole instruction, and are read up to its length. -/
theorem decode_ok {t : IsaTable} {bs rest : List Byte} {i : Instr} (h : decode t bs = .ok (i, rest)) :
    ∃ b0 tl d, bs = b0 :: tl ∧ classify t b0 tl.head? = some d ∧ d.lenBytes ≤ bs.length ∧
      i = (decodeFields (leWord (bs.take d.lenBytes)) d).toInstr ∧ rest = bs.drop d.lenBytes := by
  unfold decode at h
  split at h
  · cases h
  · rename_i b0 tl
    split at h
    · cases h
    · split at h
      · cases h
      · rename_i d hd
        split at h
        · cases h
        · cases h
          exact ⟨b0, tl, d, rfl, hd, by omega, rfl, rfl⟩

/-- The word of bytes that classify has the selector fields of the row found, if it holds two bytes or more. -/
theorem selects_leWord_take {t : IsaTable} {b0 : Byte} {tl : List Byte} {d : Descriptor} {n : Nat} (hn : 2 ≤ n)
    (h : classify t b0 tl.head? = some d) :
    ∃ r ∈ t, d = r.descriptor ∧ Selects (leWord ((b0 :: tl).take n)) r := by
  obtain ⟨r, hr, hd, hsel, h4⟩ := classify_some h
  have hbyte : ∀ k < 2, (leWord ((b0 :: tl).take n)).extractLsb' (8 * k) 8 = (b0 :: tl).getD k 0 := fun k hk => by
    rw [leWord_extractLsb' _ (by omega), List.getD_eq_getElem?_getD, List.getElem?_take_of_lt (by omega),
      List.getD_eq_getElem?_getD]
  refine ⟨r, hr, hd, (hbyte 0 (by decide)).trans hsel.symm, h4.imp_right ?_⟩
  rintro ⟨b, hb, h4⟩
  have hb1 : (b0 :: tl).getD 1 0 = b := by
    cases tl with
    | nil => cases hb
    | cons b1 tl => cases hb; rfl
  rw [h4, ← hb1, ← hbyte 1 (by decide), extractLsb'_extractLsb' _ (by decide)]

/-- Settles O3: the word read has the selector fields of the row found, so encoding its fields gives it back. -/
theorem encodeInvertsDecode : Obligations.EncodeInvertsDecode := by
  unfold Obligations.EncodeInvertsDecode
  intro t bs rest i ht h
  obtain ⟨b0, tl, d, rfl, hd, hlen, rfl, rfl⟩ := decode_ok h
  have hlen3or4 := lenBytes_cases_of_classify hd
  have hi := len_toInstr_of_classify hd (leWord ((b0 :: tl).take d.lenBytes))
  obtain ⟨r, hr, rfl, hselects⟩ := selects_leWord_take (n := d.lenBytes) (by omega) hd
  rw [hi, toInstr_decodeFields_mnemonic]
  exact ⟨hlen, rfl, encodeWord_toInstr_decodeFields ht hr hselects⟩

/-! ## Don't-care bits (R109) -/

/-- The bytes of an instruction word hold all its care bits. -/
theorem leWord_leBytes_and_careMask (f : Format) (w : Word32) :
    leWord (leBytes f.bytes w) &&& careMask f = w &&& careMask f := by
  have hbit : ∀ j < 32, j / 8 < f.bytes → (leWord (leBytes f.bytes w)).getLsbD j = w.getLsbD j := fun j hj hjb => by
    rw [leWord_getLsbD _ _ hj, leBytes_getD _ _ _ hjb, BitVec.getLsbD_extractLsb',
      show 8 * (j / 8) + j % 8 = j by omega]
    simp [show j % 8 < 8 by omega]
  apply BitVec.eq_of_getLsbD_eq
  intro j hj
  rw [BitVec.getLsbD_and, BitVec.getLsbD_and]
  by_cases hjb : j / 8 < f.bytes
  · rw [hbit j hj hjb]
  · have hcare : (careMask f).getLsbD j = false := by
      cases f with
      | r =>
        have h24 : 24 ≤ j := by simp only [Format.bytes] at hjb; omega
        interval_cases j <;> rfl
      | _ => simp only [Format.bytes] at hjb; omega
    rw [hcare, Bool.and_false, Bool.and_false]

/-- Words with the same care bits of a format have the same byte0, and the same funct4 where the format has one. -/
theorem selectorFields_of_careMask_eq {f : Format} {w w' : Word32} (h : w &&& careMask f = w' &&& careMask f) :
    w.extractLsb' 0 8 = w'.extractLsb' 0 8 ∧
      (f.usesFunct4 = true → w.extractLsb' 8 4 = w'.extractLsb' 8 4) := by
  have hbit : ∀ j, (careMask f).getLsbD j = true → w.getLsbD j = w'.getLsbD j := fun j hj => by
    have := congrArg (BitVec.getLsbD · j) h
    simpa [hj] using this
  refine ⟨BitVec.eq_of_getLsbD_eq fun j hj => ?_, fun huses => BitVec.eq_of_getLsbD_eq fun j hj => ?_⟩
  · rw [BitVec.getLsbD_extractLsb', BitVec.getLsbD_extractLsb', hbit (0 + j)]
    interval_cases j <;> cases f <;> rfl
  · rw [BitVec.getLsbD_extractLsb', BitVec.getLsbD_extractLsb', hbit (8 + j)]
    cases f with
    | r | u | shiftImm => interval_cases j <;> rfl
    | i | s | jImm | jReg | noOperand => cases huses

/-- The selector fields of a row are among its format's care bits. -/
theorem Selects.of_careMask_eq {t : IsaTable} (ht : IsaTable.valid t = true) {r : IsaRow} (hr : r ∈ t) {w w' : Word32}
    (h : Selects w r) (hcare : w &&& careMask r.mnemonic.format = w' &&& careMask r.mnemonic.format) :
    Selects w' r := by
  obtain ⟨-, -, -, hformat, -⟩ := (IsaTable.valid_iff t).mp ht
  obtain ⟨hsel, h4⟩ := h
  obtain ⟨hbyte0, hfunct4⟩ := selectorFields_of_careMask_eq hcare
  refine ⟨hbyte0 ▸ hsel, h4.imp_right fun h4 => ?_⟩
  have huses : r.mnemonic.format.usesFunct4 = true := by
    rw [← IsaTable.funct4_iff_format hformat hr, h4, Option.isSome_some]
  rw [h4, hfunct4 huses]

/-- What a word decodes to, with the row it has the selector fields of: the decoder reads the instruction's bytes. -/
theorem decodeWord_of_selects {t : IsaTable} (ht : IsaTable.valid t = true) {r : IsaRow} (hr : r ∈ t) {w : Word32}
    (h : Selects w r) :
    decodeWord t w = some (decodeFields (leWord (leBytes r.mnemonic.format.bytes w)) r.descriptor).toInstr := by
  rw [decodeWord, classify_of_selects ht hr h, Option.map_some, IsaRow.descriptor_lenBytes]

/-- An instruction executes as the one that its masked operands stand for: execution masks a shift amount again. -/
theorem exec_ofOperands_maskedOperands (i : Instr) (s : State) :
    exec (Instr.ofOperands i.mnemonic (maskedOperands i)) s = exec i s := by
  have hshift : ∀ (op : AluOp) (rd rs1 : Reg) (shamt : Byte),
      aluShift op rd rs1 (((shiftAmount shamt).setWidth 20 : BitVec 20).setWidth 8) s = aluShift op rd rs1 shamt s := by
    intro op rd rs1 shamt
    rw [BitVec.setWidth_setWidth_of_le _ (by decide), BitVec.setWidth_eq, aluShift, shiftAmount_shiftAmount, aluShift]
  cases i with
  | slli rd rs1 shamt => exact congrArg Host.Outcome.next (hshift .sll rd rs1 shamt)
  | srli rd rs1 shamt => exact congrArg Host.Outcome.next (hshift .srl rd rs1 shamt)
  | _ => exact congrArg (exec · s) (Instr.ofOperands_operands _)

/-- Instructions of one mnemonic that encode to the same word execute alike. -/
theorem exec_eq_of_encodeWord_eq (t : IsaTable) {i i' : Instr} (hm : i'.mnemonic = i.mnemonic)
    (hw : encodeWord t i' = encodeWord t i) (s : State) : exec i' s = exec i s := by
  have hmasked : maskedOperands i' = maskedOperands i := by
    have hi := operands_decodeFields_encodeWord t i (d := (plainRow i.mnemonic 0 0).descriptor) rfl
    have hi' := operands_decodeFields_encodeWord t i' (d := (plainRow i.mnemonic 0 0).descriptor)
      (congrArg Mnemonic.format hm.symm)
    rw [← hi, ← hi', hw]
  rw [← exec_ofOperands_maskedOperands i', ← exec_ofOperands_maskedOperands i, hm, hmasked]

/-- Settles O4: the two words decode under one row to instructions that encode to the same word. -/
theorem dontCareBitsChangeNothing : Obligations.DontCareBitsChangeNothing := by
  unfold Obligations.DontCareBitsChangeNothing
  intro t w w' i ht hdecode hcare
  obtain ⟨d, hclassify, rfl⟩ := Option.map_eq_some_iff.mp hdecode
  obtain ⟨r, hr, rfl, hw⟩ := selects_of_classify hclassify
  rw [toInstr_decodeFields_mnemonic] at hcare
  rw [IsaRow.descriptor_lenBytes]
  refine ⟨_, decodeWord_of_selects ht hr (hw.of_careMask_eq ht hr hcare), exec_eq_of_encodeWord_eq t ?_ ?_⟩
  · rw [toInstr_decodeFields_mnemonic, toInstr_decodeFields_mnemonic]
  · have hread : ∀ v : Word32, Selects v r →
        encodeWord t (decodeFields (leWord (leBytes r.mnemonic.format.bytes v)) r.descriptor).toInstr =
          v &&& careMask r.mnemonic.format := fun v hv => by
      have hbytes := leWord_leBytes_and_careMask r.mnemonic.format v
      rw [encodeWord_toInstr_decodeFields ht hr (hv.of_careMask_eq ht hr hbytes.symm), hbytes]
    rw [hread w hw, hread w' (hw.of_careMask_eq ht hr hcare)]
    exact hcare.symm

/-! ## The reference table (R105) -/

/-- Settles O8, by evaluating the five checks on the 35 rows. -/
theorem referenceTableLegal : Obligations.ReferenceTableLegal := by
  unfold Obligations.ReferenceTableLegal
  decide

/-- Settles O10, each word by evaluating the decoder on it. -/
theorem decodeOfWrittenOutWords : Obligations.DecodeOfWrittenOutWords := by
  unfold Obligations.DecodeOfWrittenOutWords
  decide

/-- Two bytes classify under a legal table exactly when they are the selector fields of a row. -/
theorem classify_isSome_iff {t : IsaTable} (ht : IsaTable.valid t = true) (b0 b1 : Byte) :
    (classify t b0 (some b1)).isSome = true ↔
      ∃ r ∈ t, r.sel = b0 ∧ (r.funct4 = none ∨ r.funct4 = some (b1.extractLsb' 0 4)) := by
  constructor
  · intro h
    obtain ⟨d, hd⟩ := Option.isSome_iff_exists.mp h
    obtain ⟨r, hr, -, hsel, h4⟩ := classify_some hd
    refine ⟨r, hr, hsel, h4.imp_right ?_⟩
    rintro ⟨b, hb, h4⟩
    cases hb
    exact h4
  · rintro ⟨r, hr, rfl, h4⟩
    rw [classify_row ht hr b1 h4, Option.isSome_some]

/-- Settles O9: the table's rows written out, their selector bytes and funct4 compared as numbers. -/
theorem referenceSelectorsExactly : Obligations.ReferenceSelectorsExactly := by
  unfold Obligations.ReferenceSelectorsExactly
  intro b0 b1
  rw [classify_isSome_iff referenceTableLegal]
  have hnibble : (b1.extractLsb' 0 4).toNat = b1.toNat % 16 := by rw [extractLsb'_toNat_div]; omega
  simp only [referenceTable, referenceAluRows, referenceOtherRows, plainRow, funct4Row, List.mem_append,
    List.mem_cons, List.not_mem_nil, or_false, exists_eq_left, IsaRow.sel, or_and_right, exists_or, reduceCtorEq,
    false_or, Option.some.injEq, and_true, ← BitVec.toNat_inj, hnibble, selectorOf_toNat, BitVec.ofNat_eq_ofNat,
    BitVec.toNat_ofNat]
  generalize b0.toNat = x, b1.toNat % 16 = n
  constructor
  · intro h
    repeat' rcases h with h | h
    all_goals omega
  · rintro (h | h | h | h | h | h | h | h | h | h) <;> omega

end Sys2Proof
end

section
/-! PROOFS. The statements about the register shifts and the divisions (spec 40_alu.md R147, R151, R152, R157): the common
forms with the operations that the statements of the other ALU instructions leave out. -/

namespace Sys2Proof.Machine

/-! ## Division by zero (R147, R157, R244) -/

/-- The end of a division by zero records its pc and goes to next_pc; everything else is unchanged. -/
theorem finishAlu_divZero_frame (s : State) (rd : Reg) (len : Nat) :
    (s.finishAlu rd .divZero len).divErrors = s.divErrors ++ [s.pc] ∧
      (s.finishAlu rd .divZero len).pc.toNat = (s.pc.toNat + len) % 65536 ∧ SameRegs s (s.finishAlu rd .divZero len) ∧
      SameMemory s (s.finishAlu rd .divZero len) ∧ (s.finishAlu rd .divZero len).run = s.run ∧
      SameRecords s (s.finishAlu rd .divZero len) ∧ SameInert s (s.finishAlu rd .divZero len) :=
  ⟨rfl, s.nextPc_toNat len, fun _ => rfl, fun _ => rfl, rfl, ⟨rfl, rfl, rfl⟩, rfl, rfl, rfl, rfl, rfl, rfl⟩

/-! ## The statements -/

/-- Settles O13: SLL and SRL are the R-type form with the shifts, whose amount is the whole register. -/
theorem registerShiftResult : Obligations.RegisterShiftResult := by
  unfold Obligations.RegisterShiftResult
  intro rd rs1 rs2 s
  exact ⟨⟨_, rfl, aluReg_writesReg .sll rd rs1 rs2 s nofun⟩, _, rfl, aluReg_writesReg .srl rd rs1 rs2 s nofun⟩

/-- Settles O14: DIV and DIVI are their forms with the quotient, the divisor not being zero. -/
theorem divisionResult : Obligations.DivisionResult := by
  unfold Obligations.DivisionResult
  exact ⟨fun rd rs1 rs2 s h => ⟨_, rfl, aluReg_writesReg .div rd rs1 rs2 s fun _ => h⟩,
    fun rd rs1 imm s h => ⟨_, rfl, aluImmediate_writesReg .div rd rs1 imm s fun _ => h⟩⟩

/-- Settles O15: with a zero divisor the ALU answers DivZero, for DIVI after the mask of the immediate. -/
theorem divisionByZeroIsRecordedAndPassed : Obligations.DivisionByZeroIsRecordedAndPassed := by
  unfold Obligations.DivisionByZeroIsRecordedAndPassed
  refine ⟨fun rd rs1 rs2 s h => ⟨_, rfl, ?_⟩, fun rd rs1 imm s h => ⟨_, rfl, ?_⟩⟩
  · rw [aluReg, alu_div_zero _ (BitVec.eq_of_toNat_eq h)]
    exact finishAlu_divZero_frame s rd 3
  · rw [← aluImm_toNat] at h
    rw [aluImmediate, alu_div_zero _ (BitVec.eq_of_toNat_eq h)]
    exact finishAlu_divZero_frame s rd 4

end Sys2Proof.Machine
end

section
/-! PROOFS. The statements about the branches and jumps (spec 43_control.md R210 to R222). Targets and conditions are said
once as exact integers; a branch then writes the pc alone, and a jump one register and the pc. -/

namespace Sys2Proof.Machine

/-! ## Signed numbers and targets (R11, R14, R38) -/

/-- A field read as two's complement is the signed value of the bit vector (R11). -/
theorem twos_toNat {n : Nat} (hn : 0 < n) (v : BitVec n) : twos n v.toNat = v.toInt := by
  obtain ⟨m, rfl⟩ := Nat.exists_eq_succ_of_ne_zero hn.ne'
  rw [twos, BitVec.toInt_eq_toNat_cond, Nat.succ_sub_one, Nat.pow_succ]
  split_ifs
  · rfl
  · omega
  · omega
  · rfl

/-- A pc write is the exact integer modulo 2^16 (R14). -/
theorem mod16_toNat (n : Int) : (mod16 n).toNat = pcOf n := by
  rw [mod16, BitVec.toNat_ofInt]
  rfl

/-- A target formed from next_pc is formed from pc plus the length, since both are taken modulo 2^16. -/
theorem pcOf_nextPc_add (s : State) (len : Nat) (n : Int) :
    pcOf ((s.nextPc len).toNat + n) = pcOf (s.pc.toNat + len + n) := by
  rw [State.nextPc_toNat, pcOf, pcOf]
  omega

/-- A branch target as a number (R210). -/
theorem branchTarget_nextPc_toNat (s : State) (imm : Word16) :
    (branchTarget (s.nextPc 4) imm).toNat = pcOf ((s.pc.toNat : Int) + 4 + twos 16 imm.toNat) := by
  rw [branchTarget, mod16_toNat, pcOf_nextPc_add, twos_toNat (by decide)]
  rfl

/-- JAL's target as a number (R220). -/
theorem jalTarget_nextPc_toNat (s : State) (imm : BitVec 20) :
    (jalTarget (s.nextPc 4) imm).toNat = pcOf ((s.pc.toNat : Int) + 4 + twos 20 imm.toNat) := by
  rw [jalTarget, mod16_toNat, pcOf_nextPc_add, twos_toNat (by decide)]
  rfl

/-- Clearing bit 0 is halving and doubling. -/
theorem and_FFFE_toNat (w : Word16) : (w &&& 0xFFFE).toNat = w.toNat / 2 * 2 := by
  have hmask : (0xFFFE : Word16) = BitVec.allOnes 16 <<< 1 := by decide
  rw [hmask, ← BitVec.shiftLeft_ushiftRight, BitVec.toNat_shiftLeft, BitVec.toNat_ushiftRight, Nat.shiftLeft_eq,
    Nat.shiftRight_eq_div_pow]
  omega

/-- JALR's target as a number (R222). -/
theorem jalrTarget_toNat (b : Byte) (imm : Word16) :
    (jalrTarget b imm).toNat = pcOf ((b.toNat : Int) + twos 16 imm.toNat) / 2 * 2 := by
  rw [jalrTarget, and_FFFE_toNat, mod16_toNat, twos_toNat (by decide)]

/-! ## Frames -/

/-- A write of the pc changes nothing else. -/
theorem setPc_movesPc (s : State) (p : Word16) : MovesPc s (s.setPc p) p.toNat :=
  ⟨rfl, fun _ => rfl, fun _ => rfl, rfl, rfl, ⟨rfl, rfl, rfl⟩, rfl, rfl, rfl, rfl, rfl, rfl⟩

/-- A write of a register and the pc changes nothing else. -/
theorem writeReg_setPc_writesRegJumps (s : State) (rd : Reg) (v : Byte) (p : Word16) :
    WritesRegJumps s ((s.writeReg rd v).setPc p) rd v.toNat p.toNat := by
  refine ⟨?_, fun r hr => ?_, rfl, fun _ => rfl, rfl, rfl, ⟨rfl, rfl, rfl⟩, rfl, rfl, rfl, rfl, rfl, rfl⟩
  · rw [State.readReg_setPc, State.readReg_writeReg_same]
  · rw [State.readReg_setPc, State.readReg_writeReg_other s v hr]

/-! ## The statements -/

/-- A branch whose condition stands for `taken` goes to its target when `taken` holds, and to next_pc when not. -/
theorem branchIf_movesPc {c : Cond} {rs1 rs2 : Reg} {s : State} {taken : Prop}
    (hc : c.holds (s.readReg rs1) (s.readReg rs2) = true ↔ taken) (imm : Word16) :
    (taken → MovesPc s (branchIf c rs1 rs2 imm s) (pcOf ((s.pc.toNat : Int) + 4 + twos 16 imm.toNat))) ∧
      (¬ taken → MovesPc s (branchIf c rs1 rs2 imm s) ((s.pc.toNat + 4) % 65536)) := by
  rw [← branchTarget_nextPc_toNat, ← s.nextPc_toNat 4, ← hc]
  rcases branchIf_cases c rs1 rs2 imm s with ⟨hholds, hs⟩ | ⟨hholds, hs⟩
  · exact ⟨fun _ => hs ▸ setPc_movesPc s _, fun h => absurd hholds h⟩
  · exact ⟨fun h => absurd h (by simp [hholds]), fun _ => hs ▸ setPc_movesPc s _⟩

/-- Settles O30: the six branches are one form with the six signed comparisons. -/
theorem branchResult : Obligations.BranchResult := by
  unfold Obligations.BranchResult
  intro rs1 rs2 imm s
  simp only [twos_toNat (show 0 < 8 by decide), ← s8_eq_toInt]
  exact ⟨⟨⟨rfl, rfl⟩, _, rfl, branchIf_movesPc (Cond.holds_eq _ _) imm⟩,
    ⟨⟨rfl, rfl⟩, _, rfl, branchIf_movesPc (Cond.holds_ne _ _) imm⟩,
    ⟨⟨rfl, rfl⟩, _, rfl, branchIf_movesPc (Cond.holds_lt _ _) imm⟩,
    ⟨⟨rfl, rfl⟩, _, rfl, branchIf_movesPc (Cond.holds_gt _ _) imm⟩,
    ⟨⟨rfl, rfl⟩, _, rfl, branchIf_movesPc (Cond.holds_le _ _) imm⟩,
    ⟨rfl, rfl⟩, _, rfl, branchIf_movesPc (Cond.holds_ge _ _) imm⟩

/-- What JAL and JALR write to rd, as a number (R221). -/
theorem linkValue_nextPc_toNat (s : State) : (linkValue (s.nextPc 4)).toNat = (s.pc.toNat + 4) % 65536 / 256 := by
  rw [linkValue_toNat, s.nextPc_toNat]

/-- Settles O31: JAL is a write of the link value and a jump. -/
theorem jalResult : Obligations.JalResult := by
  unfold Obligations.JalResult
  intro rd imm s
  refine ⟨⟨rfl, rfl⟩, _, rfl, ?_⟩
  rw [← jalTarget_nextPc_toNat, ← linkValue_nextPc_toNat]
  exact writeReg_setPc_writesRegJumps s rd _ _

/-- Settles O32: JALR is a write of the link value and a jump by the register as it is after that write. -/
theorem jalrResult : Obligations.JalrResult := by
  unfold Obligations.JalrResult
  intro rd rs1 imm s
  refine ⟨_, rfl, ?_⟩
  have hbase : (if rs1 = rd then (s.pc.toNat + 4) % 65536 / 256 else (s.readReg rs1).toNat) =
      ((s.writeReg rd (linkValue (s.nextPc 4))).readReg rs1).toNat := by
    rw [State.readReg_writeReg, ← linkValue_nextPc_toNat]
    split <;> rfl
  rw [hbase, ← jalrTarget_toNat, ← linkValue_nextPc_toNat]
  exact writeReg_setPc_writesRegJumps s rd _ _

end Sys2Proof.Machine
end

section
/-! PROOFS. The statements about data addresses, loads and stores (spec 20_memory.md R64 to R77, 42_load_store.md R190 to
R198). A stored value is the little-endian word of its bytes, so a store of any width is one fact; the round trips of SW
with LW and LB are then read off the results of the instructions. -/

namespace Sys2Proof.Machine

/-! ## Data addresses (R64 to R68) -/

/-- An offset read as two's complement is the same modulo 2^k, for k up to 16 (R66). -/
theorem twos16_modEq {k : Nat} (hk : k ≤ 16) (imm : Word16) : twos 16 imm.toNat ≡ imm.toNat [ZMOD 2 ^ k] := by
  unfold twos
  split
  · exact Int.ModEq.refl _
  · refine Int.modEq_iff_dvd.mpr ?_
    rw [sub_sub_cancel]
    exact pow_dvd_pow 2 hk

/-- Settles O21: the address is the masked sum, the mask is a remainder, and the remainder takes either reading of the
offset. -/
theorem dataAddressDecoder : Obligations.DataAddressDecoder := by
  unfold Obligations.DataAddressDecoder
  intro c base imm i
  refine ⟨rfl, fun h => dataAddr_lt ((memoryDefined_iff c).mpr h) base imm i, fun k h => dataAddr_eq_mod h base imm i,
    fun k hk h => ?_⟩
  rw [dataAddr_eq_mod h]
  push_cast
  exact ((twos16_modEq hk imm).symm.add_left _).add_right _

/-- Byte `n` of an access is byte 0 of the access at the offset `n` further on, in a memory of up to 2^16 bytes (R72). -/
theorem dataAddr_add_offset {c : Config} {k : Nat} (hc : c.memoryBits k) (hk : k ≤ 16) (base : Byte) (imm : Word16)
    (n : Nat) : dataAddr c base (imm + BitVec.ofNat 16 n) 0 = dataAddr c base imm n := by
  have hdvd : 2 ^ k ∣ 2 ^ 16 := Nat.pow_dvd_pow 2 hk
  rw [dataAddr_eq_mod hc, dataAddr_eq_mod hc, BitVec.toNat_add, BitVec.toNat_ofNat, Nat.add_mod_mod, Nat.add_zero,
    Nat.add_mod, Nat.mod_mod_of_dvd _ hdvd, ← Nat.add_mod, Nat.add_assoc]

/-! ## Stores (R190, R193 to R195) -/

/-- Byte `j` of a stored little-endian word is the `j`-th byte of it, or 0, in a memory of four bytes or more. -/
theorem rd8_finishStore_leWord {s : State} (hwf : s.mem.wf = true) {k : Nat} (hc : s.cfg.memoryBits k) (hk : 2 ≤ k)
    (rs1 : Reg) (imm : Word16) (bs : List Byte) {n j : Nat} (hn : n ≤ 4) (hj : j < n) :
    (s.finishStore rs1 imm n (leWord bs)).mem.rd8 (dataAddr s.cfg (s.readReg rs1) imm j) = bs.getD j 0 := by
  rw [State.finishStore, State.setPc_mem, State.setMem_mem, Memory.rd8_writeData hwf hc hk _ _ _ hn hj,
    leWord_extractLsb' _ (by omega)]

/-- The value that SW stores is the word of the register and its pair (R195). -/
theorem pairValue_eq_leWord (s : State) (r : Reg) :
    s.pairValue r = leWord [s.readReg r, s.readReg (pairReg r)] := by
  rw [State.pairValue, BitVec.or_comm, leWord, leWord_one]

/-- Settles O23: SH stores the word of one byte, in two bytes. -/
theorem shStoresByteAndZero : Obligations.ShStoresByteAndZero := by
  unfold Obligations.ShStoresByteAndZero
  intro rs1 rs2 imm k s hwf hc hk
  refine ⟨_, rfl, ?_⟩
  rw [← leWord_one]
  refine finishStore_storesBytes s rs1 imm _ [s.readReg rs2, 0x00] fun i hi => ?_
  rw [rd8_finishStore_leWord hwf hc hk rs1 imm _ (by simp) hi]
  match i, hi with
  | 0, _ | 1, _ => rfl

/-- SW is the end of a four-byte store wherever the pair of its register has a meaning (R191, R195). -/
theorem exec_sw_of_allowed {s : State} {rs2 : Reg} (h : pairAllowed s.cfg rs2 = true) (rs1 : Reg) (imm : Word16) :
    exec (.sw rs1 rs2 imm) s = .next (s.finishStore rs1 imm 4 (s.pairValue rs2)) := if_pos h

/-- Settles O24: SW stores the word of a register and its pair, in four bytes. -/
theorem swStoresPairAndZeros : Obligations.SwStoresPairAndZeros := by
  unfold Obligations.SwStoresPairAndZeros
  intro rs1 rs2 imm k s hwf hc hk hpair
  refine ⟨_, exec_sw_of_allowed ((pairAllowed_eq _ _).mpr hpair) rs1 imm, ?_⟩
  rw [pairValue_eq_leWord]
  refine finishStore_storesBytes s rs1 imm _ [s.readReg rs2, s.readReg (rs2 + 1), 0x00, 0x00] fun i hi => ?_
  rw [rd8_finishStore_leWord hwf hc hk rs1 imm _ (by simp) hi]
  match i, hi with
  | 0, _ | 1, _ | 2, _ | 3, _ => rfl

/-! ## Loads (R196 to R198) -/

/-- Byte 0 of a load is the byte at the first address. -/
theorem loadedByte_zero (s : State) (rs1 : Reg) (imm : Word16) (n : Nat) :
    loadedByte (s.loadData rs1 imm (n + 1)) 0 = s.mem.rd8 (dataAddr s.cfg (s.readReg rs1) imm 0) :=
  Memory.readData_byte0 s.mem s.cfg (s.readReg rs1) imm n

/-- Byte 1 of a load is the byte at the second address. -/
theorem loadedByte_one (s : State) (rs1 : Reg) (imm : Word16) (n : Nat) :
    loadedByte (s.loadData rs1 imm (n + 2)) 1 = s.mem.rd8 (dataAddr s.cfg (s.readReg rs1) imm 1) :=
  Memory.readData_byte1 s.mem s.cfg (s.readReg rs1) imm n

/-- Settles O25: LB and LH write byte 0 of what they read, and go to next_pc. -/
theorem lbLhResult : Obligations.LbLhResult := by
  unfold Obligations.LbLhResult
  intro rd rs1 imm s
  refine ⟨⟨_, rfl, ?_⟩, _, rfl, ?_⟩
  · rw [loadedByte_zero]
    exact writeReg_nextPc_writesReg s rd _ 4
  · rw [loadedByte_zero]
    exact writeReg_nextPc_writesReg s rd _ 4

/-- No register is its own pair (R191). -/
theorem ne_pairReg (r : Reg) : r ≠ pairReg r := by
  rw [pairReg, ne_eq, left_eq_add]
  decide

/-- LW writes bytes 0 and 1 to its register and the pair wherever the pair has a meaning (R191, R198). -/
theorem exec_lw_of_allowed {s : State} {rd : Reg} (h : pairAllowed s.cfg rd = true) (rs1 : Reg) (imm : Word16) :
    exec (.lw rd rs1 imm) s =
      .next (((s.writeReg rd (loadedByte (s.loadData rs1 imm 4) 0)).writeReg (pairReg rd)
        (loadedByte (s.loadData rs1 imm 4) 1)).setPc (s.nextPc 4)) := if_pos h

/-- Settles O26: LW is two register writes, to different registers, of bytes read before either. -/
theorem lwResult : Obligations.LwResult := by
  unfold Obligations.LwResult
  intro rd rs1 imm s hpair
  refine ⟨_, exec_lw_of_allowed ((pairAllowed_eq _ _).mpr hpair) rs1 imm, ?_, ?_, fun r hrd hrd1 => ?_,
    s.nextPc_toNat 4, fun _ => rfl, rfl, rfl, ⟨rfl, rfl, rfl⟩, rfl, rfl, rfl, rfl, rfl, rfl⟩
  · rw [State.readReg_setPc, State.readReg_writeReg_other _ _ (ne_pairReg rd), State.readReg_writeReg_same,
      loadedByte_zero]
  · rw [State.readReg_setPc, ← pairReg, State.readReg_writeReg_same, loadedByte_one]
  · rw [State.readReg_setPc, State.readReg_writeReg_other _ _ (show r ≠ pairReg rd from hrd1),
      State.readReg_writeReg_other _ _ hrd]

/-! ## The refused forms (R191, R249) -/

theorem exec_sw_of_refused {s : State} {rs2 : Reg} (h : pairAllowed s.cfg rs2 = false) (rs1 : Reg) (imm : Word16) :
    exec (.sw rs1 rs2 imm) s = .next (s.setRun .refused) := by
  simp only [exec, execSw, h, Bool.false_eq_true, ↓reduceIte]

theorem exec_lw_of_refused {s : State} {rd : Reg} (h : pairAllowed s.cfg rd = false) (rs1 : Reg) (imm : Word16) :
    exec (.lw rd rs1 imm) s = .next (s.setRun .refused) := by
  simp only [exec, execLw, h, Bool.false_eq_true, ↓reduceIte]

/-- Settles O27: both forms are a write of the run state. -/
theorem refusedPairForms : Obligations.RefusedPairForms := by
  unfold Obligations.RefusedPairForms
  rintro r rs1 imm s hrefuse rfl
  have hpair : pairAllowed s.cfg 15 = false := by
    rw [Bool.eq_false_iff, ne_eq, pairAllowed_eq]
    simp [hrefuse]
  exact ⟨⟨_, exec_sw_of_refused hpair rs1 imm, setRun_endsRun s .refused⟩,
    _, exec_lw_of_refused hpair rs1 imm, setRun_endsRun s .refused⟩

/-! ## A store and a load of the same bytes (R72, 90_conflicts.md C9) -/

/-- Settles O28: LW reads the two register bytes that SW stored, from the same addresses. -/
theorem swThenLwRestoresThePair : Obligations.SwThenLwRestoresThePair := by
  unfold Obligations.SwThenLwRestoresThePair
  intro rs1 rs2 rd imm k s hwf hc hk hwrap
  obtain ⟨t, ht, hstored, -, -, hregs, -, -, -, hinert⟩ := swStoresPairAndZeros rs1 rs2 imm k s hwf hc hk (.inl hwrap)
  obtain ⟨-, -, -, -, -, hcfg⟩ := hinert
  obtain ⟨u, hu, hrd, hrd1, -⟩ := lwResult rd rs1 imm t (.inl (hcfg ▸ hwrap))
  rw [hcfg, hregs rs1] at hrd hrd1
  exact ⟨t, u, ht, hu, hrd.trans (hstored 0 (by decide : 0 < 4)), hrd1.trans (hstored 1 (by decide : 1 < 4))⟩

/-- Settles O29: LB at the offset `n` further on reads byte `n` of the access that SW stored. -/
theorem swThenLbReadsEachByte : Obligations.SwThenLbReadsEachByte := by
  unfold Obligations.SwThenLbReadsEachByte
  intro rs1 rs2 rd imm k n s hwf hc hk hk16 hwrap hn
  obtain ⟨t, ht, hstored, -, -, hregs, -, -, -, hinert⟩ := swStoresPairAndZeros rs1 rs2 imm k s hwf hc hk (.inl hwrap)
  obtain ⟨-, -, -, -, -, hcfg⟩ := hinert
  obtain ⟨⟨u, hu, hrd, -⟩, -⟩ := lbLhResult rd rs1 (imm + BitVec.ofNat 16 n) t
  refine ⟨t, u, ht, hu, ?_⟩
  rw [hrd, hcfg, hregs rs1, dataAddr_add_offset hc hk16, hstored n hn]
  have h0 := (s.readReg rs2).isLt
  have h1 := (s.readReg (rs2 + 1)).isLt
  match n, hn with
  | 0, _ | 1, _ | 2, _ | 3, _ => simp; omega

end Sys2Proof.Machine
end

section
/-! PROOFS. The statements about what an instruction reads, writes and leaves alone (spec 10_state.md R31, R43, 20_memory.md
R61, 30_encoding.md R121). The end of an ALU instruction is described once per part of the state, the relation `AgreeExcept`
is shown to pass through every named update, and each statement is a case split over the families of instructions. -/

namespace Sys2Proof.Machine

/-! ## The end of an ALU instruction, part by part -/

@[simp] theorem finishAlu_mem (s : State) (rd : Reg) (x : AluResult) (len : Nat) :
    (s.finishAlu rd x len).mem = s.mem := by cases x <;> rfl

@[simp] theorem finishAlu_run (s : State) (rd : Reg) (x : AluResult) (len : Nat) :
    (s.finishAlu rd x len).run = s.run := by cases x <;> rfl

@[simp] theorem finishAlu_pc (s : State) (rd : Reg) (x : AluResult) (len : Nat) :
    (s.finishAlu rd x len).pc = s.nextPc len := by cases x <;> rfl

theorem finishAlu_divErrors (s : State) (rd : Reg) (x : AluResult) (len : Nat) :
    (s.finishAlu rd x len).divErrors = if x = .divZero then s.divErrors ++ [s.pc] else s.divErrors := by
  cases x <;> rfl

theorem finishAlu_setMem (s : State) (m : Memory) (rd : Reg) (x : AluResult) (len : Nat) :
    (s.setMem m).finishAlu rd x len = (s.finishAlu rd x len).setMem m := by cases x <;> rfl

/-- A register other than rd is kept, and rd too by a division by zero. -/
theorem readReg_finishAlu_other (s : State) {rd r : Reg} {x : AluResult} (len : Nat) (h : x ≠ .divZero → r ≠ rd) :
    (s.finishAlu rd x len).readReg r = s.readReg r := by
  cases x with
  | ok v => rw [finishAlu_ok, State.readReg_setPc, State.readReg_writeReg_other s v (h nofun)]
  | divZero => rfl

/-! ## Division by zero (R147, R157) -/

/-- DIV divides by zero exactly when the ALU says so. -/
theorem alu_div_eq_divZero_iff (rd rs1 rs2 : Reg) (s : State) :
    alu .div (s.readReg rs1) (s.readReg rs2) = .divZero ↔ dividesByZero (.div rd rs1 rs2) s = true := by
  rw [alu_eq_divZero, dividesByZero, beq_iff_eq, ← BitVec.toNat_inj]
  simp

/-- DIVI divides by zero exactly when the ALU says so, the immediate being masked first. -/
theorem alu_divi_eq_divZero_iff (rd rs1 : Reg) (imm : Word16) (s : State) :
    alu .div (s.readReg rs1) (aluImm imm) = .divZero ↔ dividesByZero (.divi rd rs1 imm) s = true := by
  rw [alu_eq_divZero, dividesByZero, beq_iff_eq, ← BitVec.toNat_inj, aluImm_toNat]
  simp

/-- Settles O36: only DIV and DIVI reach the ALU's DivZero. -/
theorem onlyDivisionByZeroIsRecorded : Obligations.OnlyDivisionByZeroIsRecorded := by
  unfold Obligations.OnlyDivisionByZeroIsRecorded
  intro i s t h
  cases i with
  | div rd rs1 rs2 =>
    cases h
    exact (finishAlu_divErrors s rd _ 3).trans (if_congr (alu_div_eq_divZero_iff rd rs1 rs2 s) rfl rfl)
  | divi rd rs1 imm =>
    cases h
    exact (finishAlu_divErrors s rd _ 4).trans (if_congr (alu_divi_eq_divZero_iff rd rs1 imm s) rfl rfl)
  | lw rd rs1 imm =>
    cases hpair : pairAllowed s.cfg rd with
    | true => rw [exec_lw_of_allowed hpair] at h; cases h; rfl
    | false => rw [exec_lw_of_refused hpair] at h; cases h; rfl
  | sw rs1 rs2 imm =>
    cases hpair : pairAllowed s.cfg rs2 with
    | true => rw [exec_sw_of_allowed hpair] at h; cases h; rfl
    | false => rw [exec_sw_of_refused hpair] at h; cases h; rfl
  | _ => cases h; rfl

/-! ## The pc and the run state (R121) -/

/-- LW has a meaning exactly in the forms that are not refused (R191). -/
theorem pairAllowed_eq_not_lw (c : Config) (rd rs1 : Reg) (imm : Word16) :
    pairAllowed c rd = !refusedForm (.lw rd rs1 imm) c := by
  unfold pairAllowed refusedForm
  cases c.pairWrap with
  | wrap | refuse => rfl

/-- SW has a meaning exactly in the forms that are not refused (R191). -/
theorem pairAllowed_eq_not_sw (c : Config) (rs1 rs2 : Reg) (imm : Word16) :
    pairAllowed c rs2 = !refusedForm (.sw rs1 rs2 imm) c := by
  unfold pairAllowed refusedForm
  cases c.pairWrap with
  | wrap | refuse => rfl

/-- Settles O37: every family that names no pc ends with a write of next_pc. -/
theorem plainInstructionsGoToNextPc : Obligations.PlainInstructionsGoToNextPc := by
  unfold Obligations.PlainInstructionsGoToNextPc
  intro i s t hname hform h
  cases i with
  | beq | bne | blt | bgt | ble | bge | jal | jalr | halt => cases hname
  | div rd rs1 rs2 =>
    cases h
    exact ⟨(congrArg BitVec.toNat (finishAlu_pc s rd _ 3)).trans (s.nextPc_toNat 3), finishAlu_run s rd _ 3⟩
  | divi rd rs1 imm =>
    cases h
    exact ⟨(congrArg BitVec.toNat (finishAlu_pc s rd _ 4)).trans (s.nextPc_toNat 4), finishAlu_run s rd _ 4⟩
  | lw rd rs1 imm =>
    rw [exec_lw_of_allowed (by rw [pairAllowed_eq_not_lw, hform]; rfl)] at h
    cases h
    exact ⟨s.nextPc_toNat 4, rfl⟩
  | sw rs1 rs2 imm =>
    rw [exec_sw_of_allowed (by rw [pairAllowed_eq_not_sw, hform]; rfl)] at h
    cases h
    exact ⟨s.nextPc_toNat 4, rfl⟩
  | _ => cases h; exact ⟨s.nextPc_toNat _, rfl⟩

/-! ## Memory (R61) -/

/-- The end of a store leaves every byte alone that is none of its own. -/
theorem rd8_finishStore_other (s : State) (rs1 : Reg) (imm : Word16) (n : Nat) (v : Word32) {a : Nat}
    (h : a ∉ (List.range n).map (dataAddr s.cfg (s.readReg rs1) imm)) :
    (s.finishStore rs1 imm n v).mem.rd8 a = s.mem.rd8 a :=
  Memory.rd8_writeData_other s.mem s.cfg (s.readReg rs1) imm n v fun i hi he =>
    h (List.mem_map.mpr ⟨i, List.mem_range.mpr hi, he.symm⟩)

/-- Settles O35: only the ends of the stores write memory, and only the loads and stores read it. -/
theorem onlyLoadsAndStoresTouchMemory : Obligations.OnlyLoadsAndStoresTouchMemory := by
  unfold Obligations.OnlyLoadsAndStoresTouchMemory
  refine ⟨fun i s t h a ha => ?_, fun i s m hm => ?_⟩
  · cases i with
    | sb rs1 rs2 imm => cases h; exact rd8_finishStore_other s rs1 imm 1 _ ha
    | sh rs1 rs2 imm => cases h; exact rd8_finishStore_other s rs1 imm 2 _ ha
    | sw rs1 rs2 imm =>
      cases hpair : pairAllowed s.cfg rs2 with
      | true => rw [exec_sw_of_allowed hpair] at h; cases h; exact rd8_finishStore_other s rs1 imm 4 _ ha
      | false => rw [exec_sw_of_refused hpair] at h; cases h; rfl
    | lw rd rs1 imm =>
      cases hpair : pairAllowed s.cfg rd with
      | true => rw [exec_lw_of_allowed hpair] at h; cases h; rfl
      | false => rw [exec_lw_of_refused hpair] at h; cases h; rfl
    | div rd | divi rd => cases h; exact congrArg (Memory.rd8 · a) (finishAlu_mem s rd _ _)
    | _ => cases h; rfl
  · cases i with
    | lb | lh | lw | sb | sh | sw => cases hm
    | div rd | divi rd => exact congrArg Host.Outcome.next (finishAlu_setMem s m rd _ _)
    | _ => rfl

/-! ## States that differ in one register -/

section OneRegister

variable {r : Reg} {s s' : State}

theorem AgreeExcept.readReg_eq (h : AgreeExcept r s s') {q : Reg} (hq : r ≠ q) : s'.readReg q = s.readReg q := by
  obtain ⟨hregs, -⟩ := h
  exact hregs q hq.symm

theorem AgreeExcept.nextPc_eq (h : AgreeExcept r s s') (len : Nat) : s'.nextPc len = s.nextPc len := by
  obtain ⟨-, hpc, -⟩ := h
  rw [State.nextPc, hpc, State.nextPc]

theorem AgreeExcept.mem_eq (h : AgreeExcept r s s') : s'.mem = s.mem := by
  obtain ⟨-, -, hmem, -⟩ := h
  exact hmem

theorem AgreeExcept.cfg_eq (h : AgreeExcept r s s') : s'.cfg = s.cfg := by
  obtain ⟨-, -, -, -, -, -, -, -, -, -, -, hcfg⟩ := h
  exact hcfg

theorem AgreeExcept.loadData_eq (h : AgreeExcept r s s') {rs1 : Reg} (hq : r ≠ rs1) (imm : Word16) (n : Nat) :
    s'.loadData rs1 imm n = s.loadData rs1 imm n := by
  rw [State.loadData, h.mem_eq, h.cfg_eq, h.readReg_eq hq, State.loadData]

theorem AgreeExcept.setPc (h : AgreeExcept r s s') (p : Word16) : AgreeExcept r (s.setPc p) (s'.setPc p) := by
  obtain ⟨hregs, -, hmem, hrest⟩ := h
  exact ⟨hregs, rfl, hmem, hrest⟩

theorem AgreeExcept.setMem (h : AgreeExcept r s s') (m : Memory) : AgreeExcept r (s.setMem m) (s'.setMem m) := by
  obtain ⟨hregs, hpc, -, hrest⟩ := h
  exact ⟨hregs, hpc, rfl, hrest⟩

theorem AgreeExcept.setRun (h : AgreeExcept r s s') (x : RunState) : AgreeExcept r (s.setRun x) (s'.setRun x) := by
  obtain ⟨hregs, hpc, hmem, -, hrest⟩ := h
  exact ⟨hregs, hpc, hmem, rfl, hrest⟩

theorem AgreeExcept.recordDivError (h : AgreeExcept r s s') : AgreeExcept r s.recordDivError s'.recordDivError := by
  obtain ⟨hregs, hpc, hmem, hrun, hdiv, hrest⟩ := h
  exact ⟨hregs, hpc, hmem, hrun, by simp only [State.recordDivError_divErrors, hdiv, hpc], hrest⟩

theorem AgreeExcept.writeReg (h : AgreeExcept r s s') (rd : Reg) (v : Byte) :
    AgreeExcept r (s.writeReg rd v) (s'.writeReg rd v) := by
  obtain ⟨hregs, hpc, hmem, hrest⟩ := h
  refine ⟨fun q hq => ?_, hpc, hmem, hrest⟩
  rw [State.readReg_writeReg, State.readReg_writeReg, hregs q hq]

/-! ## What the second state's execution differs in (R31) -/

/-- From states that differ at most in `r`, the instruction leaves states that differ at most in `r`, and not even in `r`
where it writes it, a refused form apart. -/
def AgreeAfter (i : Instr) (r : Reg) (s s' : State) : Prop :=
  ∃ t t', exec i s = .next t ∧ exec i s' = .next t' ∧ AgreeExcept r t t' ∧
    (r ∈ writesOf i s → refusedForm i s.cfg = false → t'.readReg r = t.readReg r)

variable {i : Instr}

/-- An instruction that writes one register and the pc, both with values that do not depend on `r`. -/
theorem agreeAfter_of_write (h : AgreeExcept r s s') {rd : Reg} {v v' : Byte} {p p' : Word16}
    (hs : exec i s = .next ((s.writeReg rd v).setPc p)) (hs' : exec i s' = .next ((s'.writeReg rd v').setPc p'))
    (hv : v' = v) (hp : p' = p) (hw : writesOf i s = [rd]) : AgreeAfter i r s s' := by
  subst hv hp
  refine ⟨_, _, hs, hs', (h.writeReg rd v').setPc p', fun hr _ => ?_⟩
  rw [hw, List.mem_singleton] at hr
  simp only [hr, State.readReg_setPc, State.readReg_writeReg_same]

/-- An instruction that writes no register, with an effect that does not depend on `r`. -/
theorem agreeAfter_of_no_write {t t' : State} (hs : exec i s = .next t) (hs' : exec i s' = .next t')
    (ht : AgreeExcept r t t') (hw : writesOf i s = []) : AgreeAfter i r s s' :=
  ⟨t, t', hs, hs', ht, fun hr => absurd (hw ▸ hr) List.not_mem_nil⟩

/-- A refused form. -/
theorem agreeAfter_of_refused (h : AgreeExcept r s s') (hs : exec i s = .next (s.setRun .refused))
    (hs' : exec i s' = .next (s'.setRun .refused)) (hform : refusedForm i s.cfg = true) : AgreeAfter i r s s' :=
  ⟨_, _, hs, hs', h.setRun .refused, fun _ hf => absurd hform (by simp [hf])⟩

/-- An ALU instruction whose result does not depend on `r`: by a division by zero it writes no register. -/
theorem agreeAfter_of_alu (h : AgreeExcept r s s') {rd : Reg} {x x' : AluResult} {len : Nat}
    (hs : exec i s = .next (s.finishAlu rd x len)) (hs' : exec i s' = .next (s'.finishAlu rd x' len)) (hx : x' = x)
    (hdest : destinationsOf i = [rd]) (hzero : x = .divZero ↔ dividesByZero i s = true) : AgreeAfter i r s s' := by
  subst hx
  cases x' with
  | ok v =>
    refine agreeAfter_of_write h hs hs' rfl (h.nextPc_eq len) ?_
    rw [writesOf, if_neg (hzero.not.mp nofun), hdest]
  | divZero =>
    rw [finishAlu_divZero] at hs hs'
    rw [h.nextPc_eq] at hs'
    exact agreeAfter_of_no_write hs hs' (h.recordDivError.setPc _) (if_pos (hzero.mp rfl))

/-- A store of a value that does not depend on `r`, with a base register other than `r`. -/
theorem AgreeExcept.finishStore (h : AgreeExcept r s s') {rs1 : Reg} (hq : r ≠ rs1) (imm : Word16) (n : Nat)
    {v v' : Word32} (hv : v' = v) : AgreeExcept r (s.finishStore rs1 imm n v) (s'.finishStore rs1 imm n v') := by
  rw [State.finishStore, State.finishStore, h.mem_eq, h.cfg_eq, h.readReg_eq hq, h.nextPc_eq, hv]
  exact (h.setMem _).setPc _

/-- A branch on registers other than `r`. -/
theorem AgreeExcept.branchIf (h : AgreeExcept r s s') (c : Cond) {rs1 rs2 : Reg} (h1 : r ≠ rs1) (h2 : r ≠ rs2)
    (imm : Word16) : AgreeExcept r (Machine.branchIf c rs1 rs2 imm s) (Machine.branchIf c rs1 rs2 imm s') := by
  rw [Machine.branchIf, Machine.branchIf, h.readReg_eq h1, h.readReg_eq h2, h.nextPc_eq]
  exact h.setPc _

/-- No instruction depends on a register that R31 does not list as read: its family's operands are other registers, and
its family's updates keep the agreement. -/
theorem agreeAfter_of_not_read (h : AgreeExcept r s s') (hr : r ∉ readsOf i) : AgreeAfter i r s s' := by
  cases i with
  | add rd rs1 rs2 | sub rd rs1 rs2 | mul rd rs1 rs2 | and rd rs1 rs2 | or rd rs1 rs2 | xor rd rs1 rs2
  | sll rd rs1 rs2 | srl rd rs1 rs2 =>
    obtain ⟨h1, h2⟩ : r ≠ rs1 ∧ r ≠ rs2 := by simpa [readsOf] using hr
    exact agreeAfter_of_alu h rfl rfl (by rw [h.readReg_eq h1, h.readReg_eq h2]) rfl ⟨nofun, nofun⟩
  | div rd rs1 rs2 =>
    obtain ⟨h1, h2⟩ : r ≠ rs1 ∧ r ≠ rs2 := by simpa [readsOf] using hr
    exact agreeAfter_of_alu h rfl rfl (by rw [h.readReg_eq h1, h.readReg_eq h2]) rfl
      (alu_div_eq_divZero_iff rd rs1 rs2 s)
  | addi rd rs1 imm | subi rd rs1 imm | muli rd rs1 imm | andi rd rs1 imm | ori rd rs1 imm | xori rd rs1 imm
  | slli rd rs1 imm | srli rd rs1 imm =>
    have h1 : r ≠ rs1 := by simpa [readsOf] using hr
    exact agreeAfter_of_alu h rfl rfl (by rw [h.readReg_eq h1]) rfl ⟨nofun, nofun⟩
  | divi rd rs1 imm =>
    have h1 : r ≠ rs1 := by simpa [readsOf] using hr
    exact agreeAfter_of_alu h rfl rfl (by rw [h.readReg_eq h1]) rfl (alu_divi_eq_divZero_iff rd rs1 imm s)
  | lui rd imm => exact agreeAfter_of_write h rfl rfl rfl (h.nextPc_eq 4) rfl
  | auipc rd imm => exact agreeAfter_of_write h rfl rfl (by rw [h.nextPc_eq]) (h.nextPc_eq 4) rfl
  | jal rd imm => exact agreeAfter_of_write h rfl rfl (by rw [h.nextPc_eq]) (by rw [h.nextPc_eq]) rfl
  | jalr rd rs1 imm =>
    have h1 : r ≠ rs1 := by simpa [readsOf] using hr
    refine agreeAfter_of_write h rfl rfl (by rw [h.nextPc_eq]) ?_ rfl
    rw [h.nextPc_eq, (h.writeReg rd _).readReg_eq h1]
  | lb rd rs1 imm | lh rd rs1 imm =>
    have h1 : r ≠ rs1 := by simpa [readsOf] using hr
    exact agreeAfter_of_write h rfl rfl (by rw [h.loadData_eq h1]) (h.nextPc_eq 4) rfl
  | lw rd rs1 imm =>
    have h1 : r ≠ rs1 := by simpa [readsOf] using hr
    cases hpair : pairAllowed s.cfg rd with
    | true =>
      refine ⟨_, _, exec_lw_of_allowed hpair rs1 imm, exec_lw_of_allowed (h.cfg_eq ▸ hpair) rs1 imm, ?_, fun hw _ => ?_⟩
      · rw [h.loadData_eq h1, h.nextPc_eq]
        exact ((h.writeReg rd _).writeReg (pairReg rd) _).setPc _
      · obtain hw | hw : r = rd ∨ r = pairReg rd := by simpa [writesOf, dividesByZero, destinationsOf, pairReg] using hw
        all_goals simp [hw, h.loadData_eq h1, State.readReg_writeReg]
    | false =>
      exact agreeAfter_of_refused h (exec_lw_of_refused hpair rs1 imm) (exec_lw_of_refused (h.cfg_eq ▸ hpair) rs1 imm)
        (by simpa [pairAllowed_eq_not_lw s.cfg rd rs1 imm] using hpair)
  | sb rs1 rs2 imm | sh rs1 rs2 imm =>
    obtain ⟨h1, h2⟩ : r ≠ rs1 ∧ r ≠ rs2 := by simpa [readsOf] using hr
    exact agreeAfter_of_no_write rfl rfl (h.finishStore h1 imm _ (by rw [h.readReg_eq h2])) rfl
  | sw rs1 rs2 imm =>
    obtain ⟨h1, h2, h3⟩ : r ≠ rs1 ∧ r ≠ rs2 ∧ r ≠ pairReg rs2 := by simpa [readsOf, pairReg] using hr
    cases hpair : pairAllowed s.cfg rs2 with
    | true =>
      exact agreeAfter_of_no_write (exec_sw_of_allowed hpair rs1 imm) (exec_sw_of_allowed (h.cfg_eq ▸ hpair) rs1 imm)
        (h.finishStore h1 imm 4 (by rw [State.pairValue, State.pairValue, h.readReg_eq h2, h.readReg_eq h3])) rfl
    | false =>
      exact agreeAfter_of_refused h (exec_sw_of_refused hpair rs1 imm) (exec_sw_of_refused (h.cfg_eq ▸ hpair) rs1 imm)
        (by simpa [pairAllowed_eq_not_sw s.cfg rs1 rs2 imm] using hpair)
  | beq rs1 rs2 imm | bne rs1 rs2 imm | blt rs1 rs2 imm | bgt rs1 rs2 imm | ble rs1 rs2 imm | bge rs1 rs2 imm =>
    obtain ⟨h1, h2⟩ : r ≠ rs1 ∧ r ≠ rs2 := by simpa [readsOf] using hr
    exact agreeAfter_of_no_write rfl rfl (h.branchIf _ h1 h2 imm) rfl
  | halt => exact agreeAfter_of_no_write rfl rfl (h.setRun .halted) rfl

end OneRegister

/-! ## Registers that are not written (R31) -/

/-- A register not listed as written is not the destination, unless the instruction divides by zero. -/
theorem ne_of_not_mem_writesOf {i : Instr} {s : State} {r rd : Reg} {x : AluResult} (hr : r ∉ writesOf i s)
    (hdest : destinationsOf i = [rd]) (hzero : x = .divZero ↔ dividesByZero i s = true) (hx : x ≠ .divZero) :
    r ≠ rd := by
  rw [writesOf, if_neg (hzero.not.mp hx), hdest] at hr
  exact List.ne_of_not_mem_cons hr

/-- No instruction changes a register that R31 does not list as written. -/
theorem readReg_of_not_written {i : Instr} {s t : State} (h : exec i s = .next t) {r : Reg} (hr : r ∉ writesOf i s) :
    t.readReg r = s.readReg r := by
  cases i with
  | div rd rs1 rs2 =>
    cases h
    exact readReg_finishAlu_other s 3 (ne_of_not_mem_writesOf hr rfl (alu_div_eq_divZero_iff rd rs1 rs2 s))
  | divi rd rs1 imm =>
    cases h
    exact readReg_finishAlu_other s 4 (ne_of_not_mem_writesOf hr rfl (alu_divi_eq_divZero_iff rd rs1 imm s))
  | lw rd rs1 imm =>
    cases hpair : pairAllowed s.cfg rd with
    | true =>
      rw [exec_lw_of_allowed hpair] at h
      cases h
      obtain ⟨hrd, hrd1⟩ : r ≠ rd ∧ r ≠ pairReg rd := by
        simpa [writesOf, dividesByZero, destinationsOf, pairReg] using hr
      rw [State.readReg_setPc, State.readReg_writeReg_other _ _ hrd1, State.readReg_writeReg_other _ _ hrd]
    | false => rw [exec_lw_of_refused hpair] at h; cases h; rfl
  | sw rs1 rs2 imm =>
    cases hpair : pairAllowed s.cfg rs2 with
    | true => rw [exec_sw_of_allowed hpair] at h; cases h; rfl
    | false => rw [exec_sw_of_refused hpair] at h; cases h; rfl
  | sb | sh | beq | bne | blt | bgt | ble | bge | halt => cases h; rfl
  | _ => cases h; exact State.readReg_writeReg_other s _ (List.ne_of_not_mem_cons hr)

/-- Settles O34: the two halves of the table, each a case split over the families of instructions. -/
theorem registerReadWriteTable : Obligations.RegisterReadWriteTable := by
  unfold Obligations.RegisterReadWriteTable
  exact ⟨fun _ _ _ h _ => readReg_of_not_written h, fun _ _ _ _ => agreeAfter_of_not_read⟩

end Sys2Proof.Machine
end

section
/-! PROOFS. The statements about one step (spec 30_encoding.md R120, 60_exceptions.md R242 to R250): its outcome by state, the
instruction it runs, the order in which a byte outside the program region is reported, and its bookkeeping. What the
fetch answers is said once per way it can end, and the step follows by `step_of_ready`. -/

namespace Sys2Proof.Machine

/-! ## The outcome of a step (R247, R248) -/

/-- Settles O39: each clause keeps one of the ways a step can end and excludes the others. -/
theorem stepOutcomeByState : Obligations.StepOutcomeByState := by
  unfold Obligations.StepOutcomeByState
  intro s
  rw [ne_eq (s.cfg.memSize), gt_iff_lt, ← memoryDefined_iff, ← Config.progLimit, ← not_le, ← romFits_iff]
  rcases step_cases s with ⟨r, rfl, hr, hs⟩ | ⟨hr, hd, hs⟩ | ⟨hr, hd, hf, hs⟩ | ⟨hr, hd, hf, -, hs⟩ |
      ⟨hr, hd, hf, -, kind, w, -, hs⟩ | ⟨hr, hd, hf, -, d, w, t, -, -, hs⟩
  · simp [hr, hs]
  · simp [hr, hd, hs]
  all_goals simp [hr, hd, hf, hs]

/-- Settles O40: at the ceiling the step is a write of the run state. -/
theorem ceilingEndsTheRun : Obligations.CeilingEndsTheRun := by
  unfold Obligations.CeilingEndsTheRun
  intro s hr hd hf hm
  exact ⟨s.setRun .ceilingReached, by simp [step, stepAny, cycle, hr, hd, hf, hm], setRun_endsRun s .ceilingReached⟩

/-! ## What the fetch answers (R112, R120) -/

/-- Byte1 plays no part in classifying a byte0 outside F4SEL. -/
theorem classify_of_not_funct4Selector {t : IsaTable} {b0 : Byte} (h : isFunct4Selector t b0 = false)
    (b1 : Option Byte) : classify t b0 b1 = classify t b0 none := by
  simp [classify, h]

/-- A byte0 outside the program region is reported before anything is read. -/
theorem fetch_of_byte0_outside {s : State} (h : inRegion s.cfg s.pc.toNat = false) :
    fetch s = .error (.pcOutOfBounds s.pc.toNat) 0 := by
  simp [fetch, h]

/-- A byte1 outside the program region is reported for a funct4 selector, byte0 being read. -/
theorem fetch_of_byte1_outside {s : State} (h0 : inRegion s.cfg s.pc.toNat = true)
    (hsel : isFunct4Selector s.cfg.isa (s.mem.rd8 s.pc.toNat) = true)
    (h1 : inRegion s.cfg (s.pc.toNat + 1) = false) :
    fetch s = .error (.pcOutOfBounds (s.pc.toNat + 1)) (leWord [s.mem.rd8 s.pc.toNat]) := by
  simp [fetch, h0, hsel, h1]

/-- The bytes that the classifier reads at pc: byte1 for a funct4 selector only (R112). -/
def classifiedBytes (s : State) : List Byte :=
  if isFunct4Selector s.cfg.isa (s.mem.rd8 s.pc.toNat) then [s.mem.rd8 s.pc.toNat, s.mem.rd8 (s.pc.toNat + 1)]
  else [s.mem.rd8 s.pc.toNat]

/-- Once the classifier has found an instruction, its bytes are checked and its word is fetched. -/
theorem fetch_of_classify {s : State} {d : Descriptor} (h0 : inRegion s.cfg s.pc.toNat = true)
    (h1 : isFunct4Selector s.cfg.isa (s.mem.rd8 s.pc.toNat) = true → inRegion s.cfg (s.pc.toNat + 1) = true)
    (hd : classify s.cfg.isa (s.mem.rd8 s.pc.toNat) (some (s.mem.rd8 (s.pc.toNat + 1))) = some d) :
    fetch s = fetchWhole s (some d) (leWord (classifiedBytes s)) := by
  cases hsel : isFunct4Selector s.cfg.isa (s.mem.rd8 s.pc.toNat) with
  | true => simp [fetch, classifiedBytes, h0, hsel, h1 hsel, hd]
  | false =>
    rw [classify_of_not_funct4Selector hsel] at hd
    simp [fetch, classifiedBytes, h0, hsel, hd]

/-- The whole word is fetched when every byte of the instruction is in the program region. -/
theorem fetchWhole_of_inside {s : State} {d : Descriptor} (w : Word32)
    (h : ∀ k < d.lenBytes, inRegion s.cfg (s.pc.toNat + k) = true) :
    fetchWhole s (some d) w = .ok d (leWord (s.mem.bytesFrom s.pc.toNat d.lenBytes)) := by
  simp only [fetchWhole, firstOutside_none.mpr h]

/-- The first byte of the instruction outside the program region is reported. -/
theorem fetchWhole_of_outside {s : State} {d : Descriptor} {k : Nat} (w : Word32) (hk : k < d.lenBytes)
    (hin : ∀ j < k, inRegion s.cfg (s.pc.toNat + j) = true) (hout : inRegion s.cfg (s.pc.toNat + k) = false) :
    fetchWhole s (some d) w = .error (.pcOutOfBounds (s.pc.toNat + k)) w := by
  simp only [fetchWhole, firstOutside_some.mpr ⟨k, hk, rfl, hout, hin⟩]

/-- The number of the bytes that the classifier read. -/
theorem leWord_classifiedBytes_toNat (s : State) :
    (leWord (classifiedBytes s)).toNat =
      if isFunct4Selector s.cfg.isa (s.mem.rd8 s.pc.toNat) then
        (s.mem.rd8 s.pc.toNat).toNat + 256 * (s.mem.rd8 (s.pc.toNat + 1)).toNat
      else (s.mem.rd8 s.pc.toNat).toNat := by
  unfold classifiedBytes
  split
  · exact leWord_two_toNat _ _
  · exact leWord_one_toNat _

/-- Settles O43: each clause is the fetch's error for the byte it names, taken by the step. -/
theorem pcOutOfBoundsOrder : Obligations.PcOutOfBoundsOrder := by
  unfold Obligations.PcOutOfBoundsOrder
  intro s hs
  refine ⟨fun h0 => step_of_fetch_error hs (fetch_of_byte0_outside h0), fun h0 hsel h1 => ?_,
    fun d k hsel hk hkd hin hout hd => ?_⟩
  · rw [← leWord_one_toNat]
    exact step_of_fetch_error hs (fetch_of_byte1_outside h0 hsel h1)
  · rw [← leWord_classifiedBytes_toNat]
    refine step_of_fetch_error hs ?_
    rw [fetch_of_classify (hin 0 hk) (fun h => hin 1 (hsel h)) hd]
    exact fetchWhole_of_outside _ hkd hin hout

/-! ## Running the decoded instruction (R120, R122) -/

@[simp] theorem Memory.bytesFrom_length (m : Memory) (a n : Nat) : (m.bytesFrom a n).length = n := by
  induction n generalizing a with
  | zero => rfl
  | succ n ih => rw [Memory.bytesFrom, List.length_cons, ih]

/-- Byte `k` of the bytes from `a` on is the byte at `a + k`. -/
theorem Memory.bytesFrom_getD (m : Memory) (a : Nat) {k n : Nat} (h : k < n) :
    (m.bytesFrom a n).getD k 0 = m.rd8 (a + k) := by
  induction n generalizing a k with
  | zero => omega
  | succ n ih =>
    cases k with
    | zero => rfl
    | succ k =>
      rw [Memory.bytesFrom, List.getD_cons_succ, ih (a + 1) (by omega), Nat.add_right_comm, Nat.add_assoc]

/-- Byte `k` of the little-endian word at `a` is the byte at `a + k` (R71). -/
theorem leWord_bytesFrom_extractLsb' (m : Memory) (a : Nat) {k : Nat} (h : k < 4) :
    (leWord (m.bytesFrom a 4)).extractLsb' (8 * k) 8 = m.rd8 (a + k) := by
  rw [leWord_extractLsb' _ h, Memory.bytesFrom_getD m a h]

/-- The lowest bytes of the word at `a` are the bytes from `a` on. -/
theorem leBytes_leWord_bytesFrom (m : Memory) (a : Nat) {n : Nat} (hn : n ≤ 4) :
    leBytes n (leWord (m.bytesFrom a 4)) = m.bytesFrom a n := by
  refine List.ext_getElem (by simp) fun k hk hk' => ?_
  have hkn : k < n := by simpa using hk
  rw [← List.getD_eq_getElem _ 0 hk, ← List.getD_eq_getElem _ 0 hk', leBytes_getD _ _ _ hkn,
    leWord_bytesFrom_extractLsb' m a (by omega), Memory.bytesFrom_getD m a hkn]

/-- Settles O38: the fetch classifies the bytes as `decodeWord` does, finds them all in the region, and answers their
word. -/
theorem stepRunsTheDecodedInstruction : Obligations.StepRunsTheDecodedInstruction := by
  unfold Obligations.StepRunsTheDecodedInstruction
  intro s i hs hdecode hin
  obtain ⟨d, hclassify, rfl⟩ := Option.map_eq_some_iff.mp hdecode
  have hlen3or4 := lenBytes_cases_of_classify hclassify
  rw [len_toInstr_of_classify hclassify] at hin ⊢
  rw [leBytes_leWord_bytesFrom _ _ (by omega)]
  have hbyte0 := leWord_bytesFrom_extractLsb' s.mem s.pc.toNat (k := 0) (by decide)
  have hbyte1 := leWord_bytesFrom_extractLsb' s.mem s.pc.toNat (k := 1) (by decide)
  have hd : classify s.cfg.isa (s.mem.rd8 s.pc.toNat) (some (s.mem.rd8 (s.pc.toNat + 1))) = some d := by
    rw [← hclassify, ← hbyte1]
    exact congrArg (classify s.cfg.isa · _) hbyte0.symm
  rw [step_of_ready hs, fetch_of_classify (hin 0 (by omega)) (fun _ => hin 1 (by omega)) hd, fetchWhole_of_inside _ hin]

/-! ## Bookkeeping (R41, R42, R43) -/

/-- What running an instruction from a Running state and counting it does to the run state, the count and the records. -/
theorem countStep_of_exec {s u : State} {i : Instr} {w : Word32} (hrun : s.run = .running)
    (h : exec i (s.recordFetch w) = .next u) :
    u.countStep.lastPC = s.pc ∧
      ((u.run = .running ∧ u.countStep.steps = s.steps + 1 ∧
          (u.divErrors = s.divErrors ∨ u.divErrors = s.divErrors ++ [s.pc])) ∨
        (u.run = .halted ∧ u.countStep.steps = s.steps + 1 ∧ u.divErrors = s.divErrors ∧ u.pc = s.pc) ∨
        (u.run = .refused ∧ s.cfg.pairWrap = .refuse ∧ u.countStep.steps = s.steps ∧ u.divErrors = s.divErrors ∧
          u.pc = s.pc)) := by
  obtain ⟨hlastPC, -, hsteps, -⟩ := exec_keeps h
  simp only [State.recordFetch_lastPC, State.recordFetch_steps] at hlastPC hsteps
  rw [State.countStep_lastPC, State.countStep_steps, hsteps]
  refine ⟨hlastPC, ?_⟩
  rcases exec_run h with hr | ⟨hr, hpc, hdiv⟩ | ⟨hr, hwrap, hpc, hdiv⟩
  · rw [State.recordFetch_run, hrun] at hr
    exact .inl ⟨hr, by simp [hr], (exec_divErrors h).imp_right And.left⟩
  · exact .inr (.inl ⟨hr, by simp [hr], hdiv, hpc⟩)
  · exact .inr (.inr ⟨hr, hwrap, by simp [hr], hdiv, hpc⟩)

/-- Settles O46, one case per way a step can end. -/
theorem stepBookkeeping : Obligations.StepBookkeeping := by
  unfold Obligations.StepBookkeeping
  intro s t h
  obtain ⟨hrun, -, -, ⟨-, rfl⟩ | ⟨-, kind, w, -, rfl⟩ | ⟨-, d, w, u, -, hexec, rfl⟩⟩ := step_next_cases h
  · exact ⟨by simp, ⟨[], by simp⟩, by simp⟩
  · exact ⟨by simp, ⟨[], by simp⟩, by simp⟩
  · obtain ⟨hlastPC, hcases⟩ := countStep_of_exec hrun hexec
    rw [State.countStep_run, State.countStep_divErrors]
    rcases hcases with ⟨hr, hsteps, hdiv | hdiv⟩ | ⟨hr, hsteps, hdiv, -⟩ | ⟨hr, -, hsteps, hdiv, -⟩
    · exact ⟨by simp [hr, hsteps], ⟨[], by simp [hdiv]⟩, fun _ => hlastPC⟩
    · exact ⟨by simp [hr, hsteps], ⟨[s.pc], by simp [hdiv]⟩, fun _ => hlastPC⟩
    · exact ⟨by simp [hr, hsteps], ⟨[], by simp [hdiv]⟩, fun _ => hlastPC⟩
    · exact ⟨by simp [hr, hsteps], ⟨[], by simp [hdiv]⟩, fun _ => hlastPC⟩

end Sys2Proof.Machine
end

section
/-! PROOFS. The invariant of the machine and what follows for runs (spec 10_state.md section 4, 20_memory.md section 1,
60_exceptions.md R240 to R249, 70_reset_and_hazards.md R270 to R279): reset and boot meet it, each way a step can end keeps
it, and a run that it holds of ends within the ceiling. -/

namespace Sys2Proof.Machine

/-! ## The parameters -/

/-- The four checks of legal parameters (R8, R62, R106). -/
theorem configWf_iff (c : Config) :
    c.wf = true ↔ IsaTable.valid c.isa = true ∧ c.memSize = c.addrMask + 1 ∧ c.progLimit ≤ c.memSize ∧
      0 < c.maxSteps := by
  simp [Config.wf, Config.memoryDefined, Config.romFits, and_assoc]

/-! ## A step keeps the invariant -/

/-- Ending the run at the ceiling keeps the invariant (R248). -/
theorem inv_setRun_ceilingReached {s : State} (hs : s.Inv) (hm : s.cfg.maxSteps ≤ s.steps) :
    (s.setRun .ceilingReached).Inv where
  memCanonical := hs.memCanonical
  memInside := hs.memInside
  cfgLegal := hs.cfgLegal
  runLegal := rfl
  stepsBounded := hs.stepsBounded
  divErrorsCounted := hs.divErrorsCounted
  ceilingExact := fun _ => Nat.le_antisymm hs.stepsBounded hm
  diagnosticPc := nofun

/-- Taking an error that a fetch raised keeps the invariant (R240, R243). -/
theorem inv_raiseFatal {s : State} {kind : ErrorKind} {w : Word32} (hs : s.Inv) (hf : fetch s = .error kind w) :
    (s.raiseFatal kind w).Inv where
  memCanonical := hs.memCanonical
  memInside := hs.memInside
  cfgLegal := hs.cfgLegal
  runLegal := by
    rw [State.raiseFatal_run, State.raiseFatal_cfg]
    rcases fetch_error_kind hf with rfl | ⟨a, rfl, ha⟩
    · rfl
    · simp [RunState.legal, ha]
  stepsBounded := hs.stepsBounded
  divErrorsCounted := hs.divErrorsCounted
  ceilingExact := nofun
  diagnosticPc := fun _ => rfl

/-- Running an instruction below the ceiling and counting it keeps the invariant. -/
theorem inv_countStep_of_exec {s u : State} {i : Instr} {w : Word32} (hs : s.Inv) (hrun : s.run = .running)
    (hm : s.steps < s.cfg.maxSteps) (h : exec i (s.recordFetch w) = .next u) : u.countStep.Inv := by
  obtain ⟨hlastPC, hcases⟩ := countStep_of_exec hrun h
  have hcfg : u.countStep.cfg = s.cfg := by
    obtain ⟨-, -, -, -, -, -, -, -, hcfg⟩ := exec_keeps h
    rw [State.countStep_cfg, hcfg, State.recordFetch_cfg]
  have hdefined : s.cfg.memoryDefined = true := (memoryDefined_iff _).mpr ((configWf_iff _).mp hs.cfgLegal).2.1
  have hdiv := hs.divErrorsCounted
  have hwf := exec_mem_wf h hs.memCanonical
  have hinside := exec_mem_inside h hdefined hs.memInside
  constructor
  case memCanonical => rwa [State.countStep_mem]
  case memInside => rwa [State.countStep_mem, hcfg]
  case cfgLegal => rw [hcfg]; exact hs.cfgLegal
  case runLegal =>
    rw [State.countStep_run, hcfg]
    rcases hcases with ⟨hr, -⟩ | ⟨hr, -⟩ | ⟨hr, hwrap, -⟩
    · rw [hr]; rfl
    · rw [hr]; rfl
    · rw [hr, RunState.legal, hwrap]; rfl
  case stepsBounded => rw [hcfg]; omega
  case divErrorsCounted =>
    rw [State.countStep_divErrors]
    rcases hcases with ⟨-, hsteps, hd | hd⟩ | ⟨-, hsteps, hd, -⟩ | ⟨-, -, hsteps, hd, -⟩
    · rw [hd]; omega
    · rw [hd, List.length_append, List.length_singleton]; omega
    · rw [hd]; omega
    · rw [hd]; omega
  case ceilingExact =>
    rw [State.countStep_run]
    rcases hcases with ⟨hr, -⟩ | ⟨hr, -⟩ | ⟨hr, -⟩ <;> simp [hr]
  case diagnosticPc =>
    rw [State.countStep_run, State.countStep_pc, hlastPC]
    rcases hcases with ⟨hr, -⟩ | ⟨-, -, -, hpc⟩ | ⟨-, -, -, -, hpc⟩
    · simp [hr, RunState.endedAtFetch]
    · exact fun _ => hpc.symm
    · exact fun _ => hpc.symm

/-- Settles O48, one case per way a step can end. -/
theorem stepKeepsTheInvariant : Obligations.StepKeepsTheInvariant := by
  unfold Obligations.StepKeepsTheInvariant
  intro s t hs h
  obtain ⟨hrun, -, -, ⟨hm, rfl⟩ | ⟨-, kind, w, hf, rfl⟩ | ⟨hm, d, w, u, -, hexec, rfl⟩⟩ := step_next_cases h
  · exact inv_setRun_ceilingReached hs hm
  · exact inv_raiseFatal hs hf
  · exact inv_countStep_of_exec hs hrun hm hexec

/-! ## Reset and boot meet the invariant (R270, R273) -/

/-- R270's state with a memory image and parameters: what both reset and boot give. -/
def resetWith (m : Memory) (c : Config) : State := { State.reset with pc := c.progBase, mem := m, cfg := c }

/-- A reset state meets the invariant when its memory and its parameters do: nothing has run yet. -/
theorem inv_resetWith {m : Memory} {c : Config} (hwf : m.wf = true) (hinside : m.inside c.memSize = true)
    (hc : c.wf = true) : (resetWith m c).Inv where
  memCanonical := hwf
  memInside := hinside
  cfgLegal := hc
  runLegal := rfl
  stepsBounded := Nat.zero_le _
  divErrorsCounted := Nat.le_refl 0
  ceilingExact := nofun
  diagnosticPc := nofun

/-- The parameters at reset are legal, whatever positive ceiling MAX_STEPS is. -/
theorem defaultConfig_wf : defaultConfig.wf = true :=
  (configWf_iff defaultConfig).mpr ⟨referenceTableLegal, rfl, Nat.zero_le _, Nat.succ_pos _⟩

/-- Settles O49: State.reset is the reset state with no image and the parameters at reset. -/
theorem resetMeetsTheInvariant : Obligations.ResetMeetsTheInvariant := by
  unfold Obligations.ResetMeetsTheInvariant
  exact inv_resetWith (m := []) rfl rfl defaultConfig_wf

/-- What boot answers for an image that fits. -/
theorem boot_of_fits {c : Config} {rom : List Byte} (hd : c.memSize = c.addrMask + 1)
    (hf : c.progBase.toNat + rom.length ≤ c.memSize) :
    boot c rom = .next (resetWith (Memory.load [] c.progBase.toNat rom) { c with romLen := rom.length }) := by
  have hdefined : ({ c with romLen := rom.length } : Config).memoryDefined = true := (memoryDefined_iff _).mpr hd
  have hfits : ({ c with romLen := rom.length } : Config).romFits = true := (romFits_iff _).mpr hf
  simp only [boot, hdefined, hfits]
  rfl

/-- Settles O51: an image that fits is loaded into a memory that lists nothing, and the two refusals are boot's tests. -/
theorem bootLoadsTheImage : Obligations.BootLoadsTheImage := by
  unfold Obligations.BootLoadsTheImage
  intro c rom hisa hmax
  refine ⟨fun hd hf =>
      ⟨_, boot_of_fits hd hf, ?_, ?_, ?_, rfl, rfl, rfl, rfl, rfl, rfl, ?_, rfl, ?_, rfl, rfl, rfl, rfl⟩,
    fun hd hf => ?_, fun hd => ?_⟩
  · exact inv_resetWith (Memory.load_wf rfl _ rom) (Memory.load_inside rfl _ rom hf)
      ((configWf_iff _).mpr ⟨hisa, hd, hf, hmax⟩)
  · exact fun k hk => Memory.rd8_load rfl _ rom k hk
  · exact fun a ha => Memory.rd8_load_other [] _ a rom ha
  · exact fun r => Vector.getElem_replicate r.isLt
  · exact fun k => Vector.getElem_replicate k.isLt
  · have hdefined : ({ c with romLen := rom.length } : Config).memoryDefined = true := (memoryDefined_iff _).mpr hd
    have hfits : ({ c with romLen := rom.length } : Config).romFits = false := by
      rw [Bool.eq_false_iff, ne_eq, romFits_iff]
      exact Nat.not_le.mpr hf
    simp [boot, hdefined, hfits]
  · have hdefined : ({ c with romLen := rom.length } : Config).memoryDefined = false := by
      rw [Bool.eq_false_iff, ne_eq, memoryDefined_iff]
      exact hd
    simp [boot, hdefined]

/-! ## Canonical memories (R60) -/

/-- Below its first cell a canonical memory reads as an unlisted address does. -/
theorem Memory.rd8_cons_below {lo k a : Nat} {v : Byte} {m : Memory} (h : Memory.wfFrom lo ((k, v) :: m) = true)
    (ha : a < k) : Memory.rd8 ((k, v) :: m) a = resetByte := by
  obtain ⟨-, hv, hm⟩ := Memory.wfFrom_cons.mp h
  exact Memory.rd8_below (Memory.wfFrom_cons.mpr ⟨Nat.le_refl k, hv, hm⟩) ha

/-- The first listed address of a memory reads as its cell. -/
theorem Memory.rd8_cons_self (k : Nat) (v : Byte) (m : Memory) : Memory.rd8 ((k, v) :: m) k = v := if_pos rfl

/-- Canonical memories that read the same list the same cells: their first cells are at the lowest address that either
lists, and their tails read the same. -/
theorem Memory.eq_of_rd8_eq {lo : Nat} {m n : Memory} (hm : Memory.wfFrom lo m = true) (hn : Memory.wfFrom lo n = true)
    (h : ∀ a, m.rd8 a = n.rd8 a) : m = n := by
  induction m generalizing lo n with
  | nil =>
    cases n with
    | nil => rfl
    | cons c n =>
      obtain ⟨k, v⟩ := c
      obtain ⟨-, hv, -⟩ := Memory.wfFrom_cons.mp hn
      exact absurd ((h k).trans (Memory.rd8_cons_self k v n)).symm hv
  | cons c m ih =>
    obtain ⟨k, v⟩ := c
    obtain ⟨-, hv, hm'⟩ := Memory.wfFrom_cons.mp hm
    cases n with
    | nil => exact absurd ((h k).symm.trans (Memory.rd8_cons_self k v m)).symm hv
    | cons c n =>
      obtain ⟨k', v'⟩ := c
      obtain ⟨-, hv', hn'⟩ := Memory.wfFrom_cons.mp hn
      have hk : k = k' := by
        rcases Nat.lt_trichotomy k k' with hlt | heq | hgt
        · refine absurd ?_ hv
          rw [← Memory.rd8_cons_self k v m, h k, Memory.rd8_cons_below hn hlt]
        · exact heq
        · refine absurd ?_ hv'
          rw [← Memory.rd8_cons_self k' v' n, ← h k', Memory.rd8_cons_below hm hgt]
      subst hk
      have hvv : v = v' := by rw [← Memory.rd8_cons_self k v m, h k, Memory.rd8_cons_self]
      have htails : ∀ a, Memory.rd8 m a = Memory.rd8 n a := fun a => by
        by_cases hak : k = a
        · subst hak
          rw [Memory.rd8_below hm' k.lt_succ_self, Memory.rd8_below hn' k.lt_succ_self]
        · simpa [Memory.rd8, hak] using h a
      rw [hvv, ih hm' hn' htails]

/-- Settles O50: the canonical form is the one from address 0 on. -/
theorem canonicalMemoriesAreDetermined : Obligations.CanonicalMemoriesAreDetermined := by
  unfold Obligations.CanonicalMemoriesAreDetermined
  exact fun _ _ => Memory.eq_of_rd8_eq

/-! ## Runs end (R279) -/

/-- A Running state that meets the invariant takes a step. -/
theorem step_of_inv {s : State} (hs : s.Inv) (hrun : s.run = .running) : ∃ t, step s = .next t := by
  obtain ⟨-, hd, hf, -⟩ := (configWf_iff _).mp hs.cfgLegal
  obtain ⟨-, -, -, hnext⟩ := stepOutcomeByState s
  exact hnext hrun hd hf

/-- The ways a run can end under PAIR_WRAP = wrap (R247, R279). -/
def Ended (t : State) : Prop := t.run = .halted ∨ (∃ kind, t.run = .faulted kind) ∨ t.run = .ceilingReached

/-- Under PAIR_WRAP = wrap a state that meets the invariant is Running or its run has ended. -/
theorem running_or_ended {t : State} (ht : t.Inv) (hw : t.cfg.pairWrap = .wrap) : t.run = .running ∨ Ended t := by
  have hlegal := ht.runLegal
  unfold Ended
  cases hrun : t.run with
  | refused => rw [hrun, RunState.legal, hw] at hlegal; cases hlegal
  | running | halted | faulted | ceilingReached => simp

/-- A Running state that meets the invariant ends its run within `n` steps when the ceiling allows fewer: each step that
does not end it is counted. -/
theorem run_ends {n : Nat} {s : State} (hn : s.cfg.maxSteps - s.steps < n) (hs : s.Inv) (hrun : s.run = .running)
    (hw : s.cfg.pairWrap = .wrap) : ∃ k t, k ≤ n ∧ Host.Core.run Sys2Proof.core k s = .next t ∧ Ended t := by
  induction n generalizing s with
  | zero => omega
  | succ n ih =>
    obtain ⟨u, hu⟩ := step_of_inv hs hrun
    have hui := stepKeepsTheInvariant s u hs hu
    obtain ⟨-, -, -, -, -, hcfg⟩ := step_sameInert hu
    rcases running_or_ended hui (hcfg ▸ hw) with hur | hended
    · obtain ⟨hsteps, -, -⟩ := stepBookkeeping s u hu
      have hbound := hui.stepsBounded
      simp only [hur, true_or, if_true, hcfg] at hsteps hbound
      obtain ⟨k, t, hk, ht, hended⟩ := ih (by rw [hcfg]; omega) hui hur (hcfg ▸ hw)
      exact ⟨k + 1, t, by omega, by rw [run_succ_of_next hu, ht], hended⟩
    · exact ⟨1, u, by omega, by rw [run_succ_of_next hu, run_zero], hended⟩

/-- Settles O52, by induction on the steps that the ceiling still allows. -/
theorem everyRunEndsWithinTheCeiling : Obligations.EveryRunEndsWithinTheCeiling := by
  unfold Obligations.EveryRunEndsWithinTheCeiling
  exact fun s hs hrun hw => run_ends (Nat.lt_succ_self _) hs hrun hw

end Sys2Proof.Machine
end
